-- ==== Sys2Proof/Word.lean ====
section
/-! DEFINITION. The word types of the block.

Rule R9 (00_scope.md): every value is an unsigned bit vector of a stated width and nothing is
signed; bit 0 is the least significant bit.  Rule R67 (20_memory.md): the smallest addressable
unit is one byte. -/

namespace Sys2Proof

/-- One byte: the unit of every register, FIFO and descriptor entry (R23, R67). -/
abbrev Byte := BitVec 8

/-- A 16-bit field of a SETUP packet, and a descriptor key (R96, R226). -/
abbrev Half := BitVec 16

/-- A whole format S word: the SETUP packet with byte `i` at bits `8i+7..8i` (R96). -/
abbrev Setup64 := BitVec 64

end Sys2Proof
end

