-- ==== Sys2Proof/Syntax.lean ====
section
/-! DEFINITION. The operations of the block, and what can happen around it.

`Instr` has one constructor per row of spec/opcode_table.json (rule R90, R104 of 30_encoding.md;
`GET_DESCRIPTOR` has two rows and so two constructors).  The block fetches no instruction stream
(R31): an operation is selected by a switch sample, an interrupt cause, a SETUP packet or a call
from the foreground.  `Choice` is one line of the schedule that says who moves next: it is the
event script of rule R108 taken apart into the single moves of rules R73 and R250. -/

namespace Sys2Proof

/-- One operation of the block (R90), with its operands (R91, R95, R96, R97, R101). -/
inductive Instr where
  /-- `TICK`, format K: the 3-bit switch sample, bit 2 = X, bit 1 = Y, bit 0 = Z (R91, R131). -/
  | tick (sw : BitVec 3)
  /-- `KP_TAKE`, a foreground command without operand (R137). -/
  | kpTake
  /-- `GI_EORST`, format G bit 1 (R94, R151). -/
  | giEorst
  /-- `GI_SOF`, format G bit 0 (R94, R152). -/
  | giSof
  /-- `EP_INT`, format E: `rxstp` as read at handler entry (R95, R154). -/
  | epInt (rxstp : Bool)
  /-- `GET_STATUS`, `80 00` (R104, R173). -/
  | getStatus (wValue wIndex wLength : Half)
  /-- `SET_ADDRESS`, `00 05` (R104, R174). -/
  | setAddress (wValue wIndex wLength : Half)
  /-- `GET_DESCRIPTOR` with recipient device, `80 06` (R104, R175). -/
  | getDescriptorDevice (wValue wIndex wLength : Half)
  /-- `GET_DESCRIPTOR` with recipient interface, `81 06` (R104, R175, 90_conflicts.md C4). -/
  | getDescriptorInterface (wValue wIndex wLength : Half)
  /-- `GET_CONFIGURATION`, `80 08` (R104, R177). -/
  | getConfiguration (wValue wIndex wLength : Half)
  /-- `SET_CONFIGURATION`, `00 09` (R104, R178). -/
  | setConfiguration (wValue wIndex wLength : Half)
  /-- `GET_REPORT`, `A1 01`, `wIndex = KEYBOARD_INTERFACE` (R104, R191). -/
  | getReport (wValue wLength : Half)
  /-- `GET_IDLE`, `A1 02`, `wIndex = KEYBOARD_INTERFACE` (R104, R192). -/
  | getIdle (wValue wLength : Half)
  /-- `GET_PROTOCOL`, `A1 03`, `wIndex = KEYBOARD_INTERFACE` (R104, R194). -/
  | getProtocol (wValue wLength : Half)
  /-- `SET_IDLE`, `21 0A`, `wIndex = KEYBOARD_INTERFACE` (R104, R193). -/
  | setIdle (wValue wLength : Half)
  /-- `SET_PROTOCOL`, `21 0B`, `wIndex = KEYBOARD_INTERFACE` (R104, R195). -/
  | setProtocol (wValue wLength : Half)
  /-- `STALL`, the default row of format S: the word that matched no row (R103, R104, R157). -/
  | stall (w : Setup64)
  /-- `USB_SETUP`, a foreground command without operand (R206). -/
  | usbSetup
  /-- `SEND_KEYPRESS(key, mod)`, a foreground command with two byte operands (R101, R208). -/
  | sendKeypress (key mod : Byte)
  /-- `HAS_CONFIGURED`, a foreground command without operand (R212). -/
  | hasConfigured
  deriving DecidableEq, Repr, Inhabited

/-- The four formats that have a bit pattern (R91, R94, R95, R96); commands have none (R101). -/
inductive Format where
  | k
  | g
  | e
  | s
  deriving DecidableEq, Repr, Inhabited

/-- The one length of each format, in bits (R107). -/
def Format.width : Format → Nat
  | .k => 3
  | .g => 2
  | .e => 1
  | .s => 64

/-- The foreground commands, selected by name (R101). -/
inductive Command where
  | kpTake
  | usbSetup
  | sendKeypress (key mod : Byte)
  | hasConfigured
  deriving DecidableEq, Repr, Inhabited

/-- The operation a command selects. -/
def Command.toInstr : Command → Instr
  | .kpTake => .kpTake
  | .usbSetup => .usbSetup
  | .sendKeypress key mod => .sendKeypress key mod
  | .hasConfigured => .hasConfigured

/-- The three handlers of the block: agents `A_TICK`, `A_GEN`, `A_EP` (R20, R243). -/
inductive Handler where
  | tick
  | gen
  | ep
  deriving DecidableEq, Repr, Inhabited

/-- The two endpoints of the block (R70): control endpoint 0 and the keyboard IN endpoint. -/
inductive Ep where
  | ep0
  | kb
  deriving DecidableEq, Repr, Inhabited

/-- What `ENV` can do to the block between two steps (R41 to R46, R73 (d), R108, R243, R274). -/
inductive EnvEvent where
  /-- The switch port reads `v` from now on (R41). -/
  | sw (v : BitVec 3)
  /-- The key-poll timer fires (R42, R244). -/
  | tick
  /-- End of a USB bus reset (R43, R245); the UDC clears the device address (R36). -/
  | eorst
  /-- Start of frame (R43, R45, R245). -/
  | sof
  /-- The host's SETUP packet arrives on EP0 (R44, R246). -/
  | setup (w : Setup64)
  /-- A spurious endpoint interrupt (R44, R246). -/
  | epint
  /-- The host collects the oldest committed packet of an endpoint (R48, R108 `IN ep`). -/
  | collect (ep : Ep)
  /-- Port `ep0_rxstp` changes by itself (R44, R73 (d)); a SETUP packet raises it too. -/
  | rxstp (b : Bool)
  /-- Port `ep0_rxout` changes (R44; `OUT0` of R108 is `rxout true`). -/
  | rxout (b : Bool)
  /-- Port `ep0_txini` changes (R44, R48). -/
  | txini (b : Bool)
  /-- The UDC's EP0 receive FIFO changes (R44, R246). -/
  | rxFifo (bs : List Byte)
  /-- Port `kb_rwal` changes (R45; `KBRDY` of R108). -/
  | kbRwal (b : Bool)
  /-- Port `pll_locked` changes (R46; `PLL` of R108). -/
  | pll (b : Bool)
  /-- The LED scan timer's handler runs: for the block, a step that changes nothing (R243). -/
  | ledTick
  /-- The runtime enables interrupts globally (R274 step 4). -/
  | enableInt
  deriving DecidableEq, Repr, Inhabited

/-- One move of the schedule: who acts next (R72, R73, R250). -/
inductive Choice where
  /-- `ENV` acts. -/
  | env (e : EnvEvent)
  /-- A pending handler starts (R244 to R246). -/
  | start (h : Handler)
  /-- The handler that is running, `A_EP` past its parse, takes its next step (R154, R171). -/
  | advance
  /-- The foreground takes the next step of the command in flight (R69, R205). -/
  | fg
  /-- The foreground calls a command (R101, R108); while a handler runs it cannot (R249). -/
  | issue (c : Command)
  deriving DecidableEq, Repr, Inhabited

end Sys2Proof
end

