-- ==== Sys2Proof/Config.lean ====
section
/-! DEFINITION. What an implementation fixes, and the values nothing fixes.

Rule R7 (00_scope.md): values the source states, hard-coded here.  Rule R8: values the source
leaves open, each an argument of the model.  `exec` and `step` have fixed types, so the arguments
are one record `Params` that State carries as a constant (no step changes it; log entry 2).  The
`opaque` constants have no body: nothing can be proved about their value. -/

namespace Sys2Proof

/-! ### Rule R7 -/

/-- `EP0_SIZE`: control endpoint 0 in bytes, single bank (R7). -/
def Config.ep0Size : Nat := 32

/-- `TX_FRAME_CEILING`: host frames a report transmit polls before it fails (R7). -/
def Config.txFrameCeiling : Nat := 50

/-- `CONFIG_VALUE`: the single supported configuration value (R7). -/
def Config.configValue : Byte := 1

/-- `N_KEYS`: keycode slots in the report (R7). -/
def Config.nKeys : Nat := 6

/-- `REPORT_LEN`: bytes of the HID report (R7). -/
def Config.reportLen : Nat := 8

/-- `N_SWITCH`: the switches X, Y, Z (R7). -/
def Config.nSwitch : Nat := 3

/-- `KEY_TICK_MS`: the nominal period of the key-poll tick (R7, R291); no rule depends on it. -/
def Config.keyTickMs : Nat := 5

/-- `LED_TICK_MS`: the nominal period of the LED scan tick, an environment interrupt (R7). -/
def Config.ledTickMs : Nat := 2

/-! ### Rule R8 -/

/-- `EORST_RESET_SCOPE`: which HidState fields end-of-reset returns to defaults (R8, R151). -/
inductive ResetScope where
  | all
  | configurationOnly
  deriving DecidableEq, Repr, Inhabited

/-- `OVERRUN_POLICY`: what an emission does when the cell is full (R8, R133, D7). -/
inductive OverrunPolicy where
  | overwrite
  | dropNew
  deriving DecidableEq, Repr, Inhabited

/-- What a failed `SEND_KEYPRESS` leaves in the report fields: the parameter of
93_implementation_defined.md U2.  Rules R208 and R209 are `keep`. -/
inductive SendFailPolicy where
  | keep
  | clear
  deriving DecidableEq, Repr, Inhabited

/-- Whether end-of-reset zeroes `sof_div` with the HidState fields only, so not under
`configuration_only` (the pseudocode of R151; vectors GE3 and P6 (b)), or under every scope (R271,
D10).  The spec's texts disagree, so the model takes it as a parameter (log entry 40). -/
inductive SofDivReset where
  | withHidState
  | always
  deriving DecidableEq, Repr, Inhabited

/-- The descriptor ROM `DESC`: byte lists by the 16-bit key `{type, index}` (R61, R226). -/
abbrev DescTable := List (Half × List Byte)

/-- The parameters of rule R8. -/
structure Params where
  /-- `PLL_LOCK_CEILING`: polls of `pll_locked` before `USB_SETUP` gives up (D31). -/
  pllLockCeiling : Nat
  /-- `CTRL_WAIT_CEILING`: polls of an EP0 hold before it gives up; `none` = unbounded (D20). -/
  ctrlWaitCeiling : Option Nat
  /-- `PROTOCOL_DEFAULT` (D9). -/
  protocolDefault : Byte
  /-- `IDLE_DEFAULT`, in units of 4 frames (D9). -/
  idleDefault : Byte
  /-- `EORST_RESET_SCOPE` (D10). -/
  eorstResetScope : ResetScope
  /-- `KEYBOARD_INTERFACE` (D16). -/
  keyboardInterface : Half
  /-- `KB_EP`: endpoint number of the keyboard endpoint, 1 to 15 (D25). -/
  kbEp : BitVec 4
  /-- `KB_EP_SIZE`, in bytes (D25). -/
  kbEpSize : Nat
  /-- `KB_EP_BANKS`, 1 or 2 (D25). -/
  kbEpBanks : Nat
  /-- `KB_EP_INTERVAL`: bInterval, in frames (D32). -/
  kbEpInterval : Byte
  /-- `FRAME_W`: bits of the frame counter (D30). -/
  frameW : Nat
  /-- `VENDOR_ID` (D33). -/
  vendorId : Half
  /-- `PRODUCT_ID` (D33). -/
  productId : Half
  /-- `STR_MANUFACTURER`, as UTF-16 code units (D33). -/
  strManufacturer : List Half
  /-- `STR_PRODUCT`, as UTF-16 code units (D33). -/
  strProduct : List Half
  /-- `DESC_TABLE` (D32). -/
  descTable : DescTable
  /-- `OVERRUN_POLICY` (D7). -/
  overrunPolicy : OverrunPolicy
  /-- The parameter of U2. -/
  sendFailPolicy : SendFailPolicy
  /-- Under which scopes end-of-reset zeroes `sof_div` (R151 against R271; log entry 40). -/
  sofDivReset : SofDivReset
  deriving DecidableEq, Repr

/-! ### The OPEN parameters and the free values -/

/-- One less than `PLL_LOCK_CEILING`, which R8 leaves OPEN but for being at least 1. -/
opaque Config.pllLockCeilingPred : Nat

/-- `VENDOR_ID`, OPEN (R8, D33). -/
opaque Config.vendorId : Half

/-- `PRODUCT_ID`, OPEN (R8, D33). -/
opaque Config.productId : Half

/-- Who moves next when State's schedule has nothing to say: nothing fixes it (R247, R250, U13).
Applied to the counter `State.draws`. -/
opaque Config.envChoice : Nat → Choice

/-- A byte of the EP0 receive FIFO that nothing fixes: read from an empty FIFO, or left by a SETUP
packet that arrived while one was being served (R246, U3, U10).  Applied to `State.draws`. -/
opaque Config.ep0FreeByte : Nat → Byte

/-- Which packets stand in an endpoint's banks after `EpSend` found every bank full, those that stood
there and the new one taken in order: nothing fixes it (R12, R48, R60; log entry 13).  Applied to the
number of packets committed so far. -/
opaque Config.overfullKept : Nat → List Bool

end Sys2Proof
end

