-- ==== Sys2Proof/Machine/HidReport.lean ====
section
/-! DEFINITION. HID report descriptors (R227 item 7, R231 of 45_descriptor_tables.md): the items of
one, the input report they declare bit by bit, and the check that it is the report of R99.

The spec takes the item format from general knowledge (R231); so does this file (PRESUMED from HID
1.11; log entry 41). -/

namespace Sys2Proof

/-- The number that bytes stand for, the least significant first (R66). -/
def leValue : List Byte → Nat
  | [] => 0
  | b :: bs => b.toNat + 256 * leValue bs

/-! ### Items -/

/-- A short item: its prefix with the size bits cleared, and its data, `size` bytes, as a number. -/
structure HidItem where
  tag : Byte
  size : Nat
  value : Nat
  deriving DecidableEq, Repr

/-- The short items of a report descriptor, in order; a long item (prefix `0xFE`) is passed over.
`none` where the bytes end inside an item. -/
def hidItems : Nat → List Byte → Option (List HidItem)
  | 0, bs => if bs.isEmpty then some [] else none
  | _ + 1, [] => some []
  | fuel + 1, p :: rest =>
    if p = 0xFE then
      match rest with
      | size :: _ :: rest =>
        if rest.length < size.toNat then none else hidItems fuel (rest.drop size.toNat)
      | _ => none
    else
      let n := if (p &&& 3) = 3 then 4 else (p &&& 3).toNat
      if rest.length < n then none
      else (hidItems fuel (rest.drop n)).map (⟨p &&& 0xFC, n, leValue (rest.take n)⟩ :: ·)

/-- The data as a signed number, as the logical bounds have it. -/
def HidItem.signed (i : HidItem) : Int :=
  if 2 * i.value < 256 ^ i.size then i.value else (i.value : Int) - (256 ^ i.size : Nat)

/-- The page that a usage of four bytes brings with it. -/
def HidItem.page (i : HidItem) : Option Nat := if i.size = 4 then some (i.value / 65536) else none

/-- The usage inside its page. -/
def HidItem.usageId (i : HidItem) : Nat := i.value % 65536

/-! ### What is in force -/

/-- The global items that say how an Input item is laid out, the part that Push and Pop save. -/
structure HidGlobals where
  page : Nat
  logicalMin : Int
  logicalMax : Int
  size : Nat
  count : Nat
  deriving DecidableEq, Repr

/-- Usages `lo` to `hi` of one page, `none` for the page in force at the main item. -/
structure UsageRun where
  page : Option Nat
  lo : Nat
  hi : Nat
  deriving DecidableEq, Repr

/-- The local items before a main item: the usages, a Usage Minimum or Maximum whose partner is still
to come, and, between delimiters, whether the one usage that counts has been taken. -/
structure HidLocals where
  runs : List UsageRun
  min : Option HidItem
  max : Option HidItem
  delimited : Option Bool
  deriving DecidableEq, Repr

def HidLocals.empty : HidLocals := ⟨[], none, none, none⟩

/-- One more run of usages; of the alternatives between delimiters only the first counts. -/
def HidLocals.add (l : HidLocals) (r : UsageRun) : HidLocals :=
  match l.delimited with
  | none => { l with runs := l.runs ++ [r] }
  | some false => { l with runs := l.runs ++ [r], delimited := some true }
  | some true => l

/-- A Usage Minimum and a Usage Maximum make a run; `none` where they are the wrong way round. -/
def HidLocals.bounds (l : HidLocals) (lo hi : Option HidItem) : Option HidLocals :=
  match lo, hi with
  | some a, some b =>
    if b.usageId < a.usageId then none
    else some ({ l with min := none, max := none }.add ⟨a.page, a.usageId, b.usageId⟩)
  | _, _ => some { l with min := lo, max := hi }

/-- The `n`th usage of the runs, its page above bit 16. -/
def nthUsage (page : Nat) : List UsageRun → Nat → Option Nat
  | [], _ => none
  | r :: rs, n =>
    if n ≤ r.hi - r.lo then some (65536 * r.page.getD page + r.lo + n)
    else nthUsage page rs (n - (r.hi - r.lo) - 1)

/-! ### The input report -/

/-- What one bit of the input report is: reserved, a switch for a usage, part of an 8-bit field whose
value is a keycode, or something else. -/
inductive HidBit where
  | reserved
  | switch (usage : Nat)
  | keycode
  | other
  deriving DecidableEq, Repr

/-- The number of usages in runs. -/
def usageCount : List UsageRun → Nat
  | [] => 0
  | r :: rs => (r.hi - r.lo + 1) + usageCount rs

/-- The runs, taken by an array field from its value `v` on and up to its value `last`, give each value
the usage of that number on the keyboard page. -/
def keycodeRuns (page last : Nat) : Nat → List UsageRun → Bool
  | _, [] => true
  | v, r :: rs =>
    decide (last < v) ||
      (r.page.getD page == 0x07 && r.lo == v && keycodeRuns page last (v + (r.hi - r.lo) + 1) rs)

/-- The fields are bytes that hold keycodes: a value that selects a usage selects the usage of that
number on the keyboard page, and some value but 0 selects one. -/
def HidGlobals.keycodes (g : HidGlobals) (runs : List UsageRun) : Bool :=
  let first := g.logicalMin.toNat
  let last := min g.logicalMax.toNat 255
  decide (g.size = 8 ∧ 0 ≤ g.logicalMin ∧ max 1 first ≤ last) &&
    decide (max 1 first < first + usageCount runs) && keycodeRuns g.page last first runs

/-- Control `n` of a variable Input item: an absolute one-bit switch from 0 to 1, or something else. -/
def HidGlobals.switch (g : HidGlobals) (runs : List UsageRun) (flags n : Nat) : HidBit :=
  if g.size = 1 ∧ g.logicalMin = 0 ∧ g.logicalMax = 1 ∧ flags.testBit 2 = false then
    match nthUsage g.page runs n with
    | some usage => .switch usage
    | none => .other
  else .other

/-- The bits an Input item declares; bit 0 of its data says constant, bit 1 variable, bit 2 relative.
A report has 64 bits, so more than 65 controls, or bits of one, count as 65. -/
def HidGlobals.inputBits (g : HidGlobals) (runs : List UsageRun) (flags : Nat) : List HidBit :=
  if flags.testBit 0 then List.replicate (min (g.size * g.count) 65) .reserved
  else if flags.testBit 1 then
    (List.range (min g.count 65)).flatMap fun n =>
      List.replicate (min g.size 65) (g.switch runs flags n)
  else List.replicate (min (g.size * g.count) 65) (if g.keycodes runs then .keycode else .other)

/-- The reading of a report descriptor so far. -/
structure HidParse where
  globals : HidGlobals
  stack : List HidGlobals
  locals : HidLocals
  bits : List HidBit
  deriving DecidableEq, Repr

def HidParse.start : HidParse := ⟨⟨0, 0, 0, 0, 0⟩, [], .empty, []⟩

/-- One item.  `none` for a report id, an output or a feature (R227 item 7), a Pop of an empty stack
and usage bounds the wrong way round; the local items end with each main item. -/
def HidParse.item (p : HidParse) (i : HidItem) : Option HidParse :=
  let g := p.globals
  match i.tag.toNat with
  | 0x84 | 0x90 | 0xB0 => none
  | 0x80 =>
    some { p with bits := p.bits ++ g.inputBits p.locals.runs i.value, locals := .empty }
  | 0xA0 | 0xC0 => some { p with locals := .empty }
  | 0x04 => some { p with globals := { g with page := i.value } }
  | 0x14 => some { p with globals := { g with logicalMin := i.signed } }
  | 0x24 => some { p with globals := { g with logicalMax := i.signed } }
  | 0x74 => some { p with globals := { g with size := i.value } }
  | 0x94 => some { p with globals := { g with count := i.value } }
  | 0xA4 => some { p with stack := g :: p.stack }
  | 0xB4 =>
    match p.stack with
    | [] => none
    | top :: below => some { p with globals := top, stack := below }
  | 0x08 => some { p with locals := p.locals.add ⟨i.page, i.usageId, i.usageId⟩ }
  | 0x18 => (p.locals.bounds (some i) p.locals.max).map fun l => { p with locals := l }
  | 0x28 => (p.locals.bounds p.locals.min (some i)).map fun l => { p with locals := l }
  | 0xA8 =>
    some { p with
      locals := { p.locals with delimited := if i.value = 1 then some false else none } }
  | _ => some p

/-- The input report that items declare, bit by bit. -/
def hidLayout : List HidItem → HidParse → Option (List HidBit)
  | [], p => some p.bits
  | i :: is, p =>
    match p.item i with
    | some p => hidLayout is p
    | none => none

/-- The bits of the report of R99: the eight modifiers of the keyboard page in their order (R25), the
reserved byte, and six keycodes (R26). -/
def reportBits : List HidBit :=
  ((List.range 8).map fun n => .switch (0x700E0 + n)) ++ List.replicate 8 .reserved ++
    List.replicate 48 .keycode

/-- A report descriptor declares exactly the report of R99, with no report id, output or feature
(R227 item 7; log entry 37). -/
def reportDescriptorWf (bs : List Byte) : Bool :=
  ((hidItems bs.length bs).bind fun is => hidLayout is .start) == some reportBits

end Sys2Proof
end

