-- ==== Sys2Proof/Machine/Descriptors.lean ====
section
/-! DEFINITION. The contents of the descriptor ROM (45_descriptor_tables.md), the parameters of a
block that takes every default of rule R8, and the checks that an admissible table meets (R226, R227)
and agrees with the other parameters (R8). -/

namespace Sys2Proof

/-! ### The default descriptor table (R228 to R233) -/

/-- Low byte, then high byte (R66). -/
def Config.le16 (v : Half) : List Byte := [v.extractLsb' 0 8, v.extractLsb' 8 8]

/-- A string descriptor: total length, type 3, UTF-16LE units (R233). -/
def Config.stringDescriptor (units : List Half) : List Byte :=
  BitVec.ofNat 8 (2 + 2 * units.length) :: 0x03 :: units.flatMap Config.le16

/-- The device descriptor (R229). -/
def Config.deviceDescriptor (vendorId productId : Half) : List Byte :=
  [0x12, 0x01, 0x00, 0x02, 0x00, 0x00, 0x00, 0x20] ++ Config.le16 vendorId ++
    Config.le16 productId ++ [0x00, 0x01, 0x01, 0x02, 0x00, 0x01]

/-- The HID descriptor (R232), also offsets 18 to 26 of the configuration entry (R230). -/
def Config.hidDescriptor : List Byte :=
  [0x09, 0x21, 0x11, 0x01, 0x00, 0x01, 0x22, 0x2D, 0x00]

/-- The configuration entry: configuration, interface, HID and endpoint descriptors (R230). -/
def Config.configurationDescriptor (kbEp : BitVec 4) (kbEpInterval : Byte) : List Byte :=
  [0x09, 0x02, 0x22, 0x00, 0x01, 0x01, 0x00, 0x80, 0x32] ++
    [0x09, 0x04, 0x00, 0x00, 0x01, 0x03, 0x01, 0x01, 0x00] ++
    Config.hidDescriptor ++
    [0x07, 0x05, 0x80 ||| kbEp.setWidth 8, 0x03, 0x08, 0x00, kbEpInterval]

/-- The HID report descriptor (R231). -/
def Config.hidReportDescriptor : List Byte :=
  [0x05, 0x01, 0x09, 0x06, 0xA1, 0x01, 0x05, 0x07, 0x19, 0xE0, 0x29, 0xE7, 0x15, 0x00] ++
    [0x25, 0x01, 0x75, 0x01, 0x95, 0x08, 0x81, 0x02, 0x95, 0x01, 0x75, 0x08, 0x81, 0x01] ++
    [0x95, 0x06, 0x75, 0x08, 0x15, 0x00, 0x25, 0x65, 0x05, 0x07, 0x19, 0x00, 0x29, 0x65] ++
    [0x81, 0x00, 0xC0]

/-- The default `DESC_TABLE` (R226, R228), keys rising. -/
def Config.defaultDescTable (vendorId productId : Half) (kbEp : BitVec 4) (kbEpInterval : Byte)
    (strManufacturer strProduct : List Half) : DescTable :=
  [(0x0100, Config.deviceDescriptor vendorId productId),
   (0x0200, Config.configurationDescriptor kbEp kbEpInterval),
   (0x0300, [0x04, 0x03, 0x09, 0x04]),
   (0x0301, Config.stringDescriptor strManufacturer),
   (0x0302, Config.stringDescriptor strProduct),
   (0x2100, Config.hidDescriptor),
   (0x2200, Config.hidReportDescriptor)]

/-! ### Looking up -/

/-- The entry under a key (R61); `none` where the key is absent. -/
def DescTable.entry (t : DescTable) (key : Half) : Option (List Byte) :=
  (t.find? fun e => e.1 == key).map Prod.snd

/-! ### The default parameters -/

/-- "taylorconor" as code units (R233). -/
def Config.strManufacturer : List Half :=
  [0x74, 0x61, 0x79, 0x6C, 0x6F, 0x72, 0x63, 0x6F, 0x6E, 0x6F, 0x72]

/-- "threeboard" as code units (R233). -/
def Config.strProduct : List Half :=
  [0x74, 0x68, 0x72, 0x65, 0x65, 0x62, 0x6F, 0x61, 0x72, 0x64]

/-- The parameters of a block that takes every default of rule R8; the three OPEN values without a
default are opaque. -/
def Config.params : Params where
  pllLockCeiling := Config.pllLockCeilingPred + 1
  ctrlWaitCeiling := none
  protocolDefault := 1
  idleDefault := 125
  eorstResetScope := .all
  keyboardInterface := 0
  kbEp := 3
  kbEpSize := 8
  kbEpBanks := 2
  kbEpInterval := 1
  frameW := 8
  vendorId := Config.vendorId
  productId := Config.productId
  strManufacturer := Config.strManufacturer
  strProduct := Config.strProduct
  descTable := Config.defaultDescTable Config.vendorId Config.productId 3 1
    Config.strManufacturer Config.strProduct
  overrunPolicy := .overwrite
  sendFailPolicy := .keep
  sofDivReset := .withHidState

/-! ### Reading a table -/

/-- `DESC` in canonical form: keys strictly rising (so a key has one entry), and entries of 1 to
255 bytes (R226, R227 item 8). -/
def DescTable.canonical : DescTable → Bool
  | [] => true
  | [(_, bs)] => decide (1 ≤ bs.length) && decide (bs.length ≤ 255)
  | (k, bs) :: (k', bs') :: rest =>
    decide (k < k') && decide (1 ≤ bs.length) && decide (bs.length ≤ 255) &&
      DescTable.canonical ((k', bs') :: rest)

/-- The entry under a key, empty where it is absent. -/
def DescTable.bytes (t : DescTable) (key : Half) : List Byte := (t.entry key).getD []

/-- Byte `i` of an entry, where it has one. -/
def DescTable.byteAt (t : DescTable) (key : Half) (i : Nat) : Option Byte := (t.bytes key)[i]?

/-- The two bytes from offset `i` on are there, and are this number, the low byte first (R66). -/
def holds16 (bs : List Byte) (i n : Nat) : Bool :=
  decide (((bs.drop i).take 2).length = 2) && decide (leValue ((bs.drop i).take 2) = n)

/-- The descriptors that a configuration entry strings together, each as long as its first byte,
`bLength`, says (R230). -/
def splitDescriptors : Nat → List Byte → List (List Byte)
  | 0, _ => []
  | _ + 1, [] => []
  | fuel + 1, len :: rest =>
    (len :: rest).take (max 1 len.toNat) ::
      splitDescriptors fuel ((len :: rest).drop (max 1 len.toNat))

/-- The descriptors of one type in the configuration entry, wherever they stand in it. -/
def DescTable.descriptors (t : DescTable) (type : Byte) : List (List Byte) :=
  (splitDescriptors (t.bytes 0x0200).length (t.bytes 0x0200)).filter fun d => d[1]? == some type

/-! ### The checks -/

/-- The one endpoint descriptor names `KB_EP`, interrupt, `KB_EP_SIZE` (R227 item 4); a byte that is not
there is no value, here and in the checks below. -/
def Params.endpointWf (p : Params) : Bool :=
  match p.descTable.descriptors 0x05 with
  | [ep] =>
    decide (ep[2]? = some (0x80 ||| p.kbEp.setWidth 8)) && decide (ep[3]? = some 3) &&
      holds16 ep 4 p.kbEpSize
  | _ => false

/-- There is an interface descriptor, and every one has the number `KEYBOARD_INTERFACE` and the class
HID (R227 item 3).  Item 3 writes `KEYBOARD_INTERFACE = 0`, R8 makes it a parameter with the default 0:
the comparison is with the parameter, whatever it is (DESIGN CHOICE, log entry 42). -/
def Params.interfaceWf (p : Params) : Bool :=
  let interfaces := p.descTable.descriptors 0x04
  !interfaces.isEmpty && interfaces.all fun i =>
    decide (i[2]?.map (·.setWidth 16) = some p.keyboardInterface) && decide (i[5]? = some 3)

/-- The consistency constraints of rule R227 on a descriptor table, in its order.  A key outside the
list of R226 is admitted, and served like the others: R226 lists the keys the source names, while D32
and U12 bind an argument by R227 alone (DESIGN CHOICE, log entry 43). -/
def Params.descTableWf (p : Params) : Bool :=
  let t := p.descTable
  decide (t.byteAt 0x0100 7 = some 32) &&
  decide (t.byteAt 0x0100 17 = some 1) && decide (t.byteAt 0x0200 5 = some Config.configValue) &&
  decide (t.byteAt 0x0200 4 = some 1) && Params.interfaceWf p &&
  Params.endpointWf p &&
  decide ((t.byteAt 0x0200 7).map (· &&& 0x60) = some 0) &&
  holds16 (t.bytes 0x2100) 7 (t.bytes 0x2200).length &&
  decide ((t.bytes 0x2100).length = 9) &&
  decide (t.bytes 0x2100 = ((t.bytes 0x0200).drop 18).take 9) &&
  reportDescriptorWf (t.bytes 0x2200) &&
  DescTable.canonical t &&
  holds16 (t.bytes 0x0200) 2 (t.bytes 0x0200).length

/-- The table carries the parameters that R8 gives it: `VENDOR_ID`, `PRODUCT_ID` (R229),
`KB_EP_INTERVAL` in every endpoint descriptor (R230) and, under the keys of R226 where they are
present, the two texts (R233). -/
def Params.identityWf (p : Params) : Bool :=
  let t := p.descTable
  ((t.bytes 0x0100).drop 8).take 4 == Config.le16 p.vendorId ++ Config.le16 p.productId &&
  (t.descriptors 0x05).all (fun ep => ep[6]? == some p.kbEpInterval) &&
  (t.entry 0x0301).all (· == Config.stringDescriptor p.strManufacturer) &&
  (t.entry 0x0302).all (· == Config.stringDescriptor p.strProduct)

end Sys2Proof
end

