-- ==== Sys2Proof/WellFormed.lean ====
section
/-! DEFINITION. The checks on operations and on the parameters.

An operation is well formed when a word of its format stands for it.  Every operand value of every
operation is legal (R91, R101, R106); the one check is that the word of a `STALL` is a word of the
default row, one that matches no row of the dispatch table (R103, R104).  `Params.wf` holds what
rules R8 and R227 ask of the parameters (93_implementation_defined.md U12); its checks on the
descriptor table stand in Machine/Descriptors.lean. -/

namespace Sys2Proof

/-- One row of the dispatch table: it matches `W` when `(W & mask) == pattern` (R103). -/
structure SetupRow where
  mask : Setup64
  pattern : Setup64
  deriving DecidableEq, Repr

/-- A row selected by `bmRequestType` and `bRequest` alone: common mask bits 15:0 (R104). -/
def SetupRow.plain (pattern : Setup64) : SetupRow := ⟨0x000000000000FFFF, pattern⟩

/-- A row that also compares `wIndex` with `KEYBOARD_INTERFACE` (R104, R190). -/
def SetupRow.keyboard (kbIf : Half) (pattern : Setup64) : SetupRow :=
  ⟨0x0000FFFF0000FFFF, pattern ||| (kbIf.setWidth 64 <<< 32)⟩

/-- The eleven rows of the dispatch table, in its order (R104). -/
def setupRows (kbIf : Half) : List SetupRow :=
  [.plain 0x0000000000000080, .plain 0x0000000000000500, .plain 0x0000000000000680,
   .plain 0x0000000000000681, .plain 0x0000000000000880, .plain 0x0000000000000900,
   .keyboard kbIf 0x00000000000001A1, .keyboard kbIf 0x00000000000002A1,
   .keyboard kbIf 0x00000000000003A1, .keyboard kbIf 0x0000000000000A21,
   .keyboard kbIf 0x0000000000000B21]

/-- `(W & mask) == pattern` (R103). -/
def SetupRow.hits (r : SetupRow) (w : Setup64) : Bool := w &&& r.mask == r.pattern

/-- The word takes the default row: it matches no row of the table (R103, R105). -/
def unsupportedWord (kbIf : Half) (w : Setup64) : Bool :=
  (setupRows kbIf).all fun r => !r.hits w

/-- The operation is one that its format can select. -/
def Instr.wf (kbIf : Half) : Instr → Bool
  | .tick _ => true
  | .kpTake => true
  | .giEorst => true
  | .giSof => true
  | .epInt _ => true
  | .getStatus _ _ _ => true
  | .setAddress _ _ _ => true
  | .getDescriptorDevice _ _ _ => true
  | .getDescriptorInterface _ _ _ => true
  | .getConfiguration _ _ _ => true
  | .setConfiguration _ _ _ => true
  | .getReport _ _ => true
  | .getIdle _ _ => true
  | .getProtocol _ _ => true
  | .setIdle _ _ => true
  | .setProtocol _ _ => true
  | .stall w => unsupportedWord kbIf w
  | .usbSetup => true
  | .sendKeypress _ _ => true
  | .hasConfigured => true

/-! ### Parameters -/

/-- What rules R8 and R227 ask of the parameters. -/
def Params.wf (p : Params) : Bool :=
  decide (1 ≤ p.pllLockCeiling) && decide (1 ≤ p.kbEp.toNat) &&
  decide (p.kbEpBanks = 1 ∨ p.kbEpBanks = 2) && decide (p.kbEpSize = Config.reportLen) &&
  decide (1 ≤ p.frameW) && Params.descTableWf p && Params.identityWf p

end Sys2Proof
end

