-- ==== Sys2Proof/Machine/State.lean ====
section
/-! DEFINITION. The state of the block, as plain data.

Every register of 10_state.md, the ports of its section 6 as they read now, the UDC's banks and
FIFOs (R48, R60), the outputs of R47, and the model's own fields: where the foreground stands in a
command (R31, R51), the schedule and the draw counter.  Rule R50 gives the reset values. -/

namespace Sys2Proof.Machine

/-- `setup_pkt`: the SETUP packet most recently read by `EP_INT` (R32, R96). -/
structure SetupPkt where
  bmRequestType : Byte
  bRequest : Byte
  wValue : Half
  wIndex : Half
  wLength : Half
  deriving DecidableEq, Repr, Inhabited

/-- The transfer types the two endpoints are configured with (R33, R34). -/
inductive EpType where
  | control
  | interrupt
  deriving DecidableEq, Repr, Inhabited

/-- The direction of the keyboard endpoint; it is IN (R34). -/
inductive EpDir where
  | dirIn
  deriving DecidableEq, Repr, Inhabited

/-- `ep0_cfg`: the configuration of control endpoint 0 (R33). -/
structure Ep0Cfg where
  enabled : Bool
  type : EpType
  size : Nat
  banks : Nat
  rxstpIntEn : Bool
  deriving DecidableEq, Repr, Inhabited

/-- `kb_cfg`: the configuration of the keyboard endpoint (R34). -/
structure KbCfg where
  enabled : Bool
  type : EpType
  dir : EpDir
  size : Nat
  banks : Nat
  deriving DecidableEq, Repr, Inhabited

/-- `ctl_phase` of `A_EP` (R31).  `polls` counts the polls made at a hold, which matters only where
`CTRL_WAIT_CEILING` is finite (R171, R174). -/
inductive CtlPhase where
  /-- `IDLE`: the handler is not running, or is running between holds. -/
  | idle
  /-- `DATA_IN(data, off, len, wlen)`: streaming `data`, `off` of `len` bytes sent. -/
  | dataIn (data : List Byte) (off len wlen polls : Nat)
  /-- `ADDR_WAIT(addr)`: `SET_ADDRESS` waits for its zero-length packet to leave. -/
  | addrWait (addr : BitVec 7) (polls : Nat)
  deriving DecidableEq, Repr, Inhabited

/-- The ordinal of a transmit inside `SEND_KEYPRESS` (R31, R210). -/
inductive TxOrd where
  | first
  | second
  deriving DecidableEq, Repr, Inhabited

/-- `send_phase` of `A_FG` (R31). -/
inductive SendPhase where
  /-- `NONE` -/
  | none
  /-- `TX_POLL(n, deadline)` -/
  | txPoll (n : TxOrd) (deadline : Nat)
  deriving DecidableEq, Repr, Inhabited

/-- The step of `USB_SETUP` the foreground takes next (R206). -/
inductive SetupPos where
  | step2
  /-- Step 3, with `polls` reads of `pll_locked` made so far. -/
  | step3 (polls : Nat)
  | step4
  | step5
  | step6
  deriving DecidableEq, Repr, Inhabited

/-- The step of `SEND_KEYPRESS` the foreground takes next: `step2`, `step4`, `step5` of R208 and
`t0` to `t6` of R210.  `saved` is the `int_enable` saved when the window opened. -/
inductive SendPos where
  | step2
  | t0 (n : TxOrd)
  | t1 (n : TxOrd)
  | t2 (n : TxOrd) (saved : Bool) (deadline : Nat)
  | t3 (n : TxOrd) (saved : Bool) (deadline : Nat)
  | t4 (n : TxOrd) (deadline : Nat)
  | t5 (n : TxOrd) (deadline : Nat)
  | t6 (n : TxOrd) (deadline : Nat)
  | step4
  | step5
  deriving DecidableEq, Repr, Inhabited

/-- Where the foreground `A_FG` stands: the command in flight, its arguments (R51) and its next
step (R69, R205). -/
inductive FgPos where
  /-- No command is in flight. -/
  | idle
  /-- `KP_TAKE` has read `v` and has still to clear the cell (R137). -/
  | kpTake (v : BitVec 3)
  | usbSetup (pos : SetupPos)
  | send (key mod : Byte) (pos : SendPos)
  deriving DecidableEq, Repr, Inhabited

/-- The command in flight. -/
def FgPos.command : FgPos → Option Command
  | .idle => none
  | .kpTake _ => some .kpTake
  | .usbSetup _ => some .usbSetup
  | .send key mod _ => some (.sendKeypress key mod)

/-- A value a command returned (R47 items 2 and 3). -/
inductive Result where
  | kpTake (v : BitVec 3)
  | usbSetup (ok : Bool)
  | sendKeypress (ok : Bool)
  | hasConfigured (b : Bool)
  deriving DecidableEq, Repr, Inhabited

/-- A packet committed by `EpSend`: `(ep, bytes)` (R47 item 1). -/
structure Packet where
  ep : BitVec 4
  bytes : List Byte
  deriving DecidableEq, Repr, Inhabited

/-- The state of the block. -/
structure State where
  /-- The parameters of R8; constant (log entry 2). -/
  cfg : Params
  /-- `key_mask`: held bits 5:3, latched bits 2:0 (R21). -/
  keyMask : BitVec 8
  /-- `kp_cell`: the pending Keypress, 0 = empty (R22). -/
  kpCell : BitVec 3
  /-- `kp_overrun`, sticky (R22). -/
  kpOverrun : Bool
  /-- `configuration` (R24). -/
  configuration : Byte
  /-- `modifier_keys` (R25). -/
  modifierKeys : Byte
  /-- `keyboard_keys[0..5]` (R26). -/
  keyboardKeys : Vector Byte 6
  /-- `protocol` (R27). -/
  protocol : Byte
  /-- `idle_config` (R28). -/
  idleConfig : Byte
  /-- `idle_count` (R29). -/
  idleCount : Byte
  /-- `sof_div` (R30). -/
  sofDiv : BitVec 2
  /-- `ctl_phase` (R31). -/
  ctlPhase : CtlPhase
  /-- `send_phase` (R31). -/
  sendPhase : SendPhase
  /-- `setup_pkt` (R32). -/
  setupPkt : SetupPkt
  /-- `ep0_cfg` (R33). -/
  ep0Cfg : Ep0Cfg
  /-- `kb_cfg` (R34). -/
  kbCfg : KbCfg
  /-- `ep0_stall` (R35). -/
  ep0Stall : Bool
  /-- `dev_addr` (R36). -/
  devAddr : BitVec 7
  /-- `addr_en` (R36). -/
  addrEn : Bool
  /-- `pad_reg_on` (R37). -/
  padRegOn : Bool
  /-- `pll_on` (R37). -/
  pllOn : Bool
  /-- `usb_on` (R37). -/
  usbOn : Bool
  /-- `gi_en_eorst` (R37). -/
  giEnEorst : Bool
  /-- `gi_en_sof` (R37). -/
  giEnSof : Bool
  /-- `attached` (R37). -/
  attached : Bool
  /-- `int_enable` (R38). -/
  intEnable : Bool
  /-- `in_handler` (R38). -/
  inHandler : Bool
  /-- `pend_tick` (R38). -/
  pendTick : Bool
  /-- `pend_gen` (R38). -/
  pendGen : Bool
  /-- `pend_ep` (R38). -/
  pendEp : Bool
  /-- `cause_eorst` (R38). -/
  causeEorst : Bool
  /-- `cause_sof` (R38). -/
  causeSof : Bool
  /-- `tx_log` (R47 item 1), oldest first. -/
  txLog : List Packet
  /-- The values the commands returned (R47 items 2 and 3), oldest first. -/
  results : List Result
  /-- Port `sw` (R41). -/
  sw : BitVec 3
  /-- Port `pll_locked` (R46). -/
  pllLocked : Bool
  /-- Port `ep0_rxstp` (R44). -/
  ep0Rxstp : Bool
  /-- Port `ep0_rxout` (R44). -/
  ep0Rxout : Bool
  /-- Port `ep0_txini` (R44). -/
  ep0Txini : Bool
  /-- Port `kb_rwal` (R45). -/
  kbRwal : Bool
  /-- Port `frame_num`, a value of `FRAME_W` bits (R45). -/
  frameNum : Nat
  /-- The EP0 FIFO as the receive FIFO (R12, R62), oldest byte first. -/
  ep0Rx : List Byte
  /-- Bytes written to the EP0 FIFO since the last `EpSend(0)` (R12, R62). -/
  ep0Tx : List Byte
  /-- Bytes written to the KB FIFO since the last `EpSend(KB_EP)` (R12, R63). -/
  kbTx : List Byte
  /-- Packets of EP0 committed and not yet collected (R48 (c)), oldest first. -/
  ep0Banks : List (List Byte)
  /-- Packets of the KB endpoint committed and not yet collected (R48 (c)), oldest first. -/
  kbBanks : List (List Byte)
  /-- Where the foreground stands (the model's own field; R31, R51). -/
  fg : FgPos
  /-- The moves the schedule has fixed, next first (the model's own field; R72, R250). -/
  sched : List Choice
  /-- How many free values have been drawn (the model's own field). -/
  draws : Nat
  deriving DecidableEq, Repr

/-- Why a step ends in a fault. -/
inductive Fault where
  /-- A read of `DESC` outside its entries: R61 defines `MemRead(DESC, (key, off), n)` only for a
  key of the table and `off + n <= length(key)`.  Raised by `Machine.memRead`; `GET_DESCRIPTOR`
  looks the key up first and reads the entry's own length, so it never gets there.  Safe. -/
  | descOutOfRange
  deriving DecidableEq, Repr

/-- Why a step has no meaning to give. -/
inductive Refusal where
  /-- An operation of the table without a meaning in this model: raised by `exec` only.  Safe. -/
  | notModelled (mnemonic : String)
  /-- A command called while another is in flight (93_implementation_defined.md U8, R205: treatment
  `refuse`): raised by the foreground commands and by the schedule's `issue`.  Safe. -/
  | commandInFlight
  /-- `USB_SETUP`, `SEND_KEYPRESS` or `KP_TAKE` called from interrupt context (U6, R252: treatment
  `refuse`): raised by these three commands.  Safe. -/
  | commandFromInterrupt
  /-- `USB_SETUP` called again after it returned `true` (U7, R207 (d): treatment `refuse`): raised by
  `USB_SETUP`.  Safe. -/
  | setupRepeated
  deriving DecidableEq, Repr

/-- The block right after power-on reset with parameters `p` (R50, R270).  The spec gives no value
for `setup_pkt`, the fields of `ep0_cfg` and `kb_cfg` other than the enables, the input ports and
the UDC's storage: the values here are DESIGN CHOICE, unsafe (log entries 3 to 6). -/
def State.resetWith (p : Params) : State where
  cfg := p
  keyMask := 0
  kpCell := 0
  kpOverrun := false
  configuration := 0
  modifierKeys := 0
  keyboardKeys := Vector.replicate 6 0
  protocol := p.protocolDefault
  idleConfig := p.idleDefault
  idleCount := 0
  sofDiv := 0
  ctlPhase := .idle
  sendPhase := .none
  setupPkt := ⟨0, 0, 0, 0, 0⟩
  ep0Cfg := ⟨false, .control, Config.ep0Size, 1, false⟩
  kbCfg := ⟨false, .interrupt, .dirIn, p.kbEpSize, p.kbEpBanks⟩
  ep0Stall := false
  devAddr := 0
  addrEn := false
  padRegOn := false
  pllOn := false
  usbOn := false
  giEnEorst := false
  giEnSof := false
  attached := false
  intEnable := false
  inHandler := false
  pendTick := false
  pendGen := false
  pendEp := false
  causeEorst := false
  causeSof := false
  txLog := []
  results := []
  sw := 0
  pllLocked := false
  ep0Rxstp := false
  ep0Rxout := false
  ep0Txini := false
  kbRwal := false
  frameNum := 0
  ep0Rx := []
  ep0Tx := []
  kbTx := []
  ep0Banks := []
  kbBanks := []
  fg := .idle
  sched := []
  draws := 0

/-- The block right after power-on reset, with every default of rule R8. -/
def State.reset : State := State.resetWith Config.params

end Sys2Proof.Machine
end

