-- ==== Sys2Proof/Machine/Flags.lean ====
section
/-! DEFINITION. The one-bit predicates of rule R39 (10_state.md), and the bits of `key_mask`
(R21, R93).  The block has no condition-code register. -/

namespace Sys2Proof.Machine

/-- The held bits, `key_mask[5:3]` (R21). -/
def heldBits (m : BitVec 8) : BitVec 3 := m.extractLsb' 3 3

/-- The latched bits, `key_mask[2:0]`: a Keypress code (R21, R93). -/
def latchedBits (m : BitVec 8) : BitVec 3 := m.extractLsb' 0 3

/-- `gesture_done`: no key is held and some key is latched (R39, R131). -/
def gestureDone (m : BitVec 8) : Bool := heldBits m == 0 && latchedBits m != 0

/-- `configured`, which is `HasConfigured()` (R39, R212). -/
def State.configured (s : State) : Bool := s.configuration != 0

/-- `cell_full` (R39). -/
def State.cellFull (s : State) : Bool := s.kpCell != 0

/-- A handler's pending bit (R38, R243). -/
def State.pending (s : State) : Handler → Bool
  | .tick => s.pendTick
  | .gen => s.pendGen
  | .ep => s.pendEp

/-- A handler may start: its bit is pending, interrupts are enabled and no handler is running
(R244 to R246, R248). -/
def State.mayStart (s : State) (h : Handler) : Bool := s.pending h && s.intEnable && !s.inHandler

end Sys2Proof.Machine
end

