-- ==== Sys2Proof/Decode.lean ====
section
/-! DEFINITION. Formats K, G, E and S: from bits to operations and back.

`decode` is total on any word of any format.  A word of format G selects up to two operations,
`GI_EORST` before `GI_SOF` (R94, R150), so a decoding is the list of operations to run, in order.
Format S never rejects: a word that matches no row is `STALL` (R103, R105).  A word that is wider
than its format, or has too few bytes, is rejected by name. -/

namespace Sys2Proof

/-- Why bits are no word of a format. -/
inductive DecodeError where
  /-- A bit above the format's one length (R107) is set. -/
  | wordTooWide
  /-- Fewer bytes than the format's length (R107). -/
  | truncated
  deriving DecidableEq, Repr, Inhabited

/-! ### The fields of format S (R96, R97) -/

/-- `bmRequestType = W[7:0]` (R96). -/
def Setup64.bmRequestType (w : Setup64) : Byte := w.extractLsb' 0 8

/-- `bRequest = W[15:8]` (R96). -/
def Setup64.bRequest (w : Setup64) : Byte := w.extractLsb' 8 8

/-- `wValue = W[31:16]` (R96). -/
def Setup64.wValue (w : Setup64) : Half := w.extractLsb' 16 16

/-- `wIndex = W[47:32]` (R96). -/
def Setup64.wIndex (w : Setup64) : Half := w.extractLsb' 32 16

/-- `wLength = W[63:48]` (R96). -/
def Setup64.wLength (w : Setup64) : Half := w.extractLsb' 48 16

/-- The format S word with the given fields (R96). -/
def Setup64.ofFields (bmRequestType bRequest : Byte) (wValue wIndex wLength : Half) : Setup64 :=
  (wLength.setWidth 64 <<< 48) ||| (wIndex.setWidth 64 <<< 32) ||| (wValue.setWidth 64 <<< 16) |||
    (bRequest.setWidth 64 <<< 8) ||| bmRequestType.setWidth 64

/-- Byte `i` of the packet: `W[8i+7:8i]` (R96). -/
def Setup64.byte (w : Setup64) (i : Nat) : Byte := w.extractLsb' (8 * i) 8

/-- The eight bytes of the packet in the order they are read (R96, R97). -/
def Setup64.bytes (w : Setup64) : List Byte :=
  [w.byte 0, w.byte 1, w.byte 2, w.byte 3, w.byte 4, w.byte 5, w.byte 6, w.byte 7]

/-- `{hi, lo}` of two bytes (R9): `hi * 256 + lo` (R158). -/
def concatBytes (hi lo : Byte) : Half := (hi.setWidth 16 <<< 8) ||| lo.setWidth 16

/-- The word of eight bytes, byte 0 in the least significant place (R96, R97). -/
def Setup64.ofBytes (b0 b1 b2 b3 b4 b5 b6 b7 : Byte) : Setup64 :=
  Setup64.ofFields b0 b1 (concatBytes b3 b2) (concatBytes b5 b4) (concatBytes b7 b6)

/-! ### Decoding -/

/-- The request a SETUP word selects (R103, R104): all of `bmRequestType` and `bRequest`, and
`wIndex` for the five HID class requests; `STALL` for every other word (R105). -/
def decodeSetup (kbIf : Half) (w : Setup64) : Instr :=
  let bm := Setup64.bmRequestType w
  let bR := Setup64.bRequest w
  let wValue := Setup64.wValue w
  let wIndex := Setup64.wIndex w
  let wLength := Setup64.wLength w
  if bm = 0x80 ∧ bR = 0x00 then .getStatus wValue wIndex wLength
  else if bm = 0x00 ∧ bR = 0x05 then .setAddress wValue wIndex wLength
  else if bm = 0x80 ∧ bR = 0x06 then .getDescriptorDevice wValue wIndex wLength
  else if bm = 0x81 ∧ bR = 0x06 then .getDescriptorInterface wValue wIndex wLength
  else if bm = 0x80 ∧ bR = 0x08 then .getConfiguration wValue wIndex wLength
  else if bm = 0x00 ∧ bR = 0x09 then .setConfiguration wValue wIndex wLength
  else if bm = 0xA1 ∧ bR = 0x01 ∧ wIndex = kbIf then .getReport wValue wLength
  else if bm = 0xA1 ∧ bR = 0x02 ∧ wIndex = kbIf then .getIdle wValue wLength
  else if bm = 0xA1 ∧ bR = 0x03 ∧ wIndex = kbIf then .getProtocol wValue wLength
  else if bm = 0x21 ∧ bR = 0x0A ∧ wIndex = kbIf then .setIdle wValue wLength
  else if bm = 0x21 ∧ bR = 0x0B ∧ wIndex = kbIf then .setProtocol wValue wLength
  else .stall w

/-- The operations of a format G word `{cause_eorst, cause_sof}`, in the order they run
(R94, R150): `0b00` runs nothing. -/
def decodeCauses (c : BitVec 2) : List Instr :=
  (if c.getLsbD 1 then [.giEorst] else []) ++ (if c.getLsbD 0 then [.giSof] else [])

/-- The operations a word of a format selects, in order. -/
def decode (kbIf : Half) (f : Format) (w : Setup64) : Except DecodeError (List Instr) :=
  if w.toNat < 2 ^ f.width then
    match f with
    | .k => .ok [.tick (w.setWidth 3)]
    | .g => .ok (decodeCauses (w.setWidth 2))
    | .e => .ok [.epInt (w.getLsbD 0)]
    | .s => .ok [decodeSetup kbIf w]
  else .error .wordTooWide

/-- The word of a format as its bytes lie in the hardware: one byte for K, G and E, the eight
bytes of the packet for S, byte 0 first (R66, R96). -/
def wordOfBytes (f : Format) : List Byte → Except DecodeError Setup64
  | b0 :: rest =>
    match f, rest with
    | .s, b1 :: b2 :: b3 :: b4 :: b5 :: b6 :: b7 :: _ =>
      .ok (Setup64.ofBytes b0 b1 b2 b3 b4 b5 b6 b7)
    | .s, _ => .error .truncated
    | .k, _ => .ok (b0.setWidth 64)
    | .g, _ => .ok (b0.setWidth 64)
    | .e, _ => .ok (b0.setWidth 64)
  | [] => .error .truncated

/-- Decode bytes as a word of a format. -/
def decodeBytes (kbIf : Half) (f : Format) (bs : List Byte) : Except DecodeError (List Instr) :=
  match wordOfBytes f bs with
  | .ok w => decode kbIf f w
  | .error e => .error e

/-! ### Encoding -/

/-- The format and word that select an operation (R91, R94, R95, R104); `none` for the foreground
commands, which have no bit encoding (R101).  `GI_EORST` and `GI_SOF` are written with the other
cause bit 0. -/
def encode (kbIf : Half) : Instr → Option (Format × Setup64)
  | .tick sw => some (.k, sw.setWidth 64)
  | .kpTake => none
  | .giEorst => some (.g, 0b10)
  | .giSof => some (.g, 0b01)
  | .epInt rxstp => some (.e, if rxstp then 1 else 0)
  | .getStatus v i l => some (.s, Setup64.ofFields 0x80 0x00 v i l)
  | .setAddress v i l => some (.s, Setup64.ofFields 0x00 0x05 v i l)
  | .getDescriptorDevice v i l => some (.s, Setup64.ofFields 0x80 0x06 v i l)
  | .getDescriptorInterface v i l => some (.s, Setup64.ofFields 0x81 0x06 v i l)
  | .getConfiguration v i l => some (.s, Setup64.ofFields 0x80 0x08 v i l)
  | .setConfiguration v i l => some (.s, Setup64.ofFields 0x00 0x09 v i l)
  | .getReport v l => some (.s, Setup64.ofFields 0xA1 0x01 v kbIf l)
  | .getIdle v l => some (.s, Setup64.ofFields 0xA1 0x02 v kbIf l)
  | .getProtocol v l => some (.s, Setup64.ofFields 0xA1 0x03 v kbIf l)
  | .setIdle v l => some (.s, Setup64.ofFields 0x21 0x0A v kbIf l)
  | .setProtocol v l => some (.s, Setup64.ofFields 0x21 0x0B v kbIf l)
  | .stall w => some (.s, w)
  | .usbSetup => none
  | .sendKeypress _ _ => none
  | .hasConfigured => none

/-! ### Words as spec/opcode_table.json numbers them -/

/-- The format of a table word.  The table gives a row's bits but not its format, and K, G and E
all fit one byte.  A length of 1, 2 or 3 bits names the format.  For one byte the model reads
0 as E, 1 to 3 as G and 4 to 7 as K, so that every one-byte row has a word of its own
(DESIGN CHOICE, log entry 24; unsafe only for a reader of this one function: the machine itself
never reads a format from the bits).  More than a byte is S. -/
def tableFormat (nbits w : Nat) : Format :=
  if nbits = 3 then .k
  else if nbits = 2 then .g
  else if nbits = 1 then .e
  else if nbits ≤ 8 then (if w = 0 then .e else if w < 4 then .g else .k)
  else .s

/-- The bytes of a table word as the hardware stores them, in its format's length. -/
def tableBytes (nbits w : Nat) : List Byte :=
  match tableFormat nbits w with
  | .s => Setup64.bytes (BitVec.ofNat 64 w)
  | .k => [BitVec.ofNat 8 w]
  | .g => [BitVec.ofNat 8 w]
  | .e => [BitVec.ofNat 8 w]

/-- The (first) operation the decoder reads from a table word of `nbits` bits; `none` where the
bits do not fit or the decoder refuses. -/
def decodeTableWord (nbits w : Nat) : Option Instr :=
  if w < 2 ^ nbits ∧ 1 ≤ nbits ∧ nbits ≤ 64 then
    match decodeBytes Config.params.keyboardInterface (tableFormat nbits w) (tableBytes nbits w) with
    | .ok is => is.head?
    | .error _ => none
  else none

end Sys2Proof
end

