-- ==== Sys2Proof/Machine/Operands.lean ====
section
/-! DEFINITION. Where operations find their operands: the SETUP packet (R97), the descriptor ROM
(R61, R176), the HID report (R99) and the chunks of a data stage (R171, R176). -/

namespace Sys2Proof.Machine

/-! ### The SETUP packet -/

/-- The packet of a format S word (R96). -/
def SetupPkt.ofWord (w : Setup64) : SetupPkt :=
  ⟨Setup64.bmRequestType w, Setup64.bRequest w, Setup64.wValue w, Setup64.wIndex w,
    Setup64.wLength w⟩

/-- The format S word of a packet (R96). -/
def SetupPkt.word (p : SetupPkt) : Setup64 :=
  Setup64.ofFields p.bmRequestType p.bRequest p.wValue p.wIndex p.wLength

/-- Operand assembly: `wValue = {b3, b2}`, `wIndex = {b5, b4}`, `wLength = {b7, b6}` (R97). -/
def SetupPkt.ofBytes (b0 b1 b2 b3 b4 b5 b6 b7 : Byte) : SetupPkt :=
  ⟨b0, b1, concatBytes b3 b2, concatBytes b5 b4, concatBytes b7 b6⟩

/-- The device address `wValue[6:0]` (R97, R174). -/
def addressOperand (wValue : Half) : BitVec 7 := wValue.extractLsb' 0 7

/-- The idle duration `wValue[15:8]` (R97, R193). -/
def idleOperand (wValue : Half) : Byte := wValue.extractLsb' 8 8

/-- The protocol `wValue[7:0]` (R97, R195). -/
def protocolOperand (wValue : Half) : Byte := wValue.extractLsb' 0 8

/-- The descriptor key `{type, index}`, which is `wValue` (R100, R175). -/
def descriptorKey (wValue : Half) : Half := wValue

/-- `wValue == CONFIG_VALUE`, the whole 16-bit word compared (R97, R178). -/
def configurationValid (wValue : Half) : Bool := wValue == Config.configValue.setWidth 16

/-! ### The HID report -/

/-- `BuildReport(S)`: modifier, reserved zero, six key slots (R65, R99). -/
def buildReport (s : State) : List Byte := s.modifierKeys :: 0 :: s.keyboardKeys.toList

/-! ### The data stage -/

/-- The bytes of the packet that starts at offset `off` of a data stage of `len` bytes: at most
`EP0_SIZE` of them (R171, R176). -/
def chunk (data : List Byte) (off len : Nat) : List Byte :=
  (data.drop off).take (min (len - off) Config.ep0Size)

/-- The data stage is over once `off` bytes have gone out, the last packet with `n` of them: all
are sent, and either that packet was short or exactly `wlen` bytes went out (R171). -/
def dataStageDone (off n len wlen : Nat) : Bool :=
  off == len && (decide (n < Config.ep0Size) || len == wlen)

/-- The length of an IN data stage: never more than the host asked for (R171). -/
def dataStageLength (data : List Byte) (wLength : Half) : Nat := min data.length wLength.toNat

end Sys2Proof.Machine
end

