-- ==== Sys2Proof/Machine/Ops.lean ====
section
/-! DEFINITION. The named operations every meaning is built from: the UDC primitives of rule R12
(00_scope.md), the descriptor read of R11 and R61, the report push of R153, the data and status
stages of R171 and R172, failures (R13, R157, R241), interrupt entry and exit (R244 to R251), the
interrupt-disabled window (R75) and the end of a foreground command (R47). -/

namespace Sys2Proof.Machine

/-! ### The UDC primitives (R12) -/

/-- The endpoint number: 0, or `KB_EP` (R70). -/
def State.epNumber (s : State) : Ep → BitVec 4
  | .ep0 => 0
  | .kb => s.cfg.kbEp

/-- `EpWrite(ep, b)`: append a byte to the endpoint's transmit FIFO. -/
def epWrite (ep : Ep) (b : Byte) (s : State) : State :=
  match ep with
  | .ep0 => { s with ep0Tx := s.ep0Tx ++ [b] }
  | .kb => { s with kbTx := s.kbTx ++ [b] }

/-- `EpWrite` for each byte of a list, in ascending order (R66). -/
def epWriteAll (ep : Ep) (bs : List Byte) (s : State) : State :=
  bs.foldl (fun s b => epWrite ep b s) s

/-- The elements that a list of marks keeps, in their order. -/
def keepMarked {α : Type} : List Bool → List α → List α
  | true :: marks, x :: xs => x :: keepMarked marks xs
  | false :: marks, _ :: xs => keepMarked marks xs
  | [], _ => []
  | _, [] => []

/-- What the `banks` banks of an endpoint hold after one more packet is committed: it fills a free
bank (R48, R60).  With no bank free the spec does not say which packets are lost: a free value chooses,
and those that stay keep the order of their `EpSend` (R79; DESIGN CHOICE, log entry 13). -/
def fillBank (banks sent : Nat) (held : List (List Byte)) (packet : List Byte) :
    List (List Byte) :=
  if held.length < banks then held ++ [packet]
  else (keepMarked (Config.overfullKept sent) (held ++ [packet])).take banks

/-- EP0's one bank after a packet is committed (R60). -/
def State.ep0Filled (s : State) (packet : List Byte) : List (List Byte) :=
  fillBank 1 s.txLog.length s.ep0Banks packet

/-- The keyboard endpoint's `KB_EP_BANKS` banks after a packet is committed (R60, R63). -/
def State.kbFilled (s : State) (packet : List Byte) : List (List Byte) :=
  fillBank s.cfg.kbEpBanks s.txLog.length s.kbBanks packet

/-- `EpSend(ep)`: commit the bytes written as one IN packet, log it, fill a bank and clear the
ready indication until the UDC raises it again (R12, R48). -/
def epSend (ep : Ep) (s : State) : State :=
  match ep with
  | .ep0 =>
    { s with
      txLog := s.txLog ++ [⟨s.epNumber .ep0, s.ep0Tx⟩]
      ep0Banks := s.ep0Filled s.ep0Tx
      ep0Tx := []
      ep0Txini := false }
  | .kb =>
    { s with
      txLog := s.txLog ++ [⟨s.epNumber .kb, s.kbTx⟩]
      kbBanks := s.kbFilled s.kbTx
      kbTx := []
      kbRwal := false }

/-- `Ep0AckSetup()`: clear `rxstp`, `rxout`, `txini` and free the FIFO, which is then empty in both
directions, its one bank among them (R12, R62, R172).  That an IN packet committed earlier and not
yet collected is gone with it is read from these rules against R48 (c) (DEDUCED, log entry 39). -/
def ep0AckSetup (s : State) : State :=
  { s with
    ep0Rxstp := false
    ep0Rxout := false
    ep0Txini := false
    ep0Rx := []
    ep0Tx := []
    ep0Banks := [] }

/-- `EpConfig(0, cfg)` (R12, R33). -/
def ep0Config (cfg : Ep0Cfg) (s : State) : State := { s with ep0Cfg := cfg }

/-- `EpConfig(KB_EP, cfg)` (R12, R34). -/
def kbConfig (cfg : KbCfg) (s : State) : State := { s with kbCfg := cfg }

/-- `EpReset(ep)`: empty every bank; the ready flag then reads 1 while the endpoint is enabled.
`tx_log` keeps the discarded packets (R12).  The data toggle is outside the block (R5).  On EP0, whose
bank both directions share (R60, R62), received bytes not yet read stay: R12 names committed packets
only (DESIGN CHOICE, log entry 44; no operation calls `EpReset(0)`). -/
def epReset (ep : Ep) (s : State) : State :=
  match ep with
  | .ep0 => { s with ep0Banks := [], ep0Tx := [], ep0Txini := s.ep0Cfg.enabled }
  | .kb => { s with kbBanks := [], kbTx := [], kbRwal := s.kbCfg.enabled }

/-- `Ep0Stall()`: force EP0 into the stall; it stays enabled (R12, R35). -/
def ep0ForceStall (s : State) : State := { s with ep0Stall := true }

/-- `TxReady()` (R12). -/
def State.txReady (s : State) : Bool := s.ep0Txini

/-- `RxOut()` (R12). -/
def State.rxOut (s : State) : Bool := s.ep0Rxout

/-- `KbReady()` (R12). -/
def State.kbReady (s : State) : Bool := s.kbRwal

/-- `FrameNum()`: `frame_num[FRAME_W-1:0]` (R12). -/
def State.frame (s : State) : Nat := s.frameNum % 2 ^ s.cfg.frameW

/-- `Ep0Read8()`: pop the oldest byte of the EP0 receive FIFO (R12, R68).  Popping an empty FIFO
gives a free value (U10; log entry 9). -/
def ep0Read8 (s : State) : Byte × State :=
  match s.ep0Rx with
  | b :: rest => (b, { s with ep0Rx := rest })
  | [] => (Config.ep0FreeByte s.draws, { s with draws := s.draws + 1 })

/-- The eight reads of a SETUP packet, in order, into `setup_pkt` (R97, R154). -/
def readSetup (s : State) : State :=
  let (b0, s) := ep0Read8 s
  let (b1, s) := ep0Read8 s
  let (b2, s) := ep0Read8 s
  let (b3, s) := ep0Read8 s
  let (b4, s) := ep0Read8 s
  let (b5, s) := ep0Read8 s
  let (b6, s) := ep0Read8 s
  let (b7, s) := ep0Read8 s
  { s with setupPkt := .ofBytes b0 b1 b2 b3 b4 b5 b6 b7 }

/-! ### Memory (R11, R61) -/

/-- `MemRead(DESC, (key, off), n)`; `none` outside the entries, where R61 does not define it. -/
def memRead (t : DescTable) (key : Half) (off n : Nat) : Option (List Byte) :=
  match t.entry key with
  | some bs => if off + n ≤ bs.length then some ((bs.drop off).take n) else none
  | none => none

/-- The canonical form of the one addressable memory, the descriptor ROM: keys strictly rising and
entries of 1 to 255 bytes, so that equal memories are equal lists (R226, R227).  An absent key
reads as nothing. -/
def Memory.wf (t : DescTable) : Bool := DescTable.canonical t

/-! ### Reports (R153) -/

/-- `PushReport()`: commit the current report on the KB endpoint. -/
def pushReport (s : State) : State := epSend .kb (epWriteAll .kb (buildReport s) s)

/-! ### Data and status stages -/

/-- `SendStatusZlp()`: one zero-length IN packet, with no hold (R172). -/
def sendStatusZlp (s : State) : State := epSend .ep0 s

/-- An EP0 hold has used up a finite `CTRL_WAIT_CEILING` (R171, R174, D20). -/
def State.holdExpired (s : State) (polls : Nat) : Bool :=
  match s.cfg.ctrlWaitCeiling with
  | none => false
  | some ceiling => decide (ceiling ≤ polls)

/-- The poll count after one more failing poll; an unbounded hold counts none (D20). -/
def State.nextPolls (s : State) (polls : Nat) : Nat :=
  match s.cfg.ctrlWaitCeiling with
  | none => polls
  | some _ => polls + 1

/-- `SendControlData(data, wlen)` up to its first wait (R171). -/
def startControlData (data : List Byte) (wLength : Half) (s : State) : State :=
  { s with ctlPhase := .dataIn data 0 (dataStageLength data wLength) wLength.toNat 0 }

/-- One poll of the wait inside `SendControlData`, and the packet it lets out (R171): `RxOut` wins
and ends the stage silently; `TxReady` sends the next chunk; otherwise the hold stands, or ends as
on abort when its ceiling is used up. -/
def controlDataPoll (data : List Byte) (off len wlen polls : Nat) (s : State) : State :=
  if s.holdExpired polls then { s with ctlPhase := .idle }
  else if s.rxOut then { s with ctlPhase := .idle }
  else if s.txReady then
    let n := min (len - off) Config.ep0Size
    let sent := epSend .ep0 (epWriteAll .ep0 (chunk data off len) s)
    if dataStageDone (off + n) n len wlen then { sent with ctlPhase := .idle }
    else { sent with ctlPhase := .dataIn data (off + n) len wlen 0 }
  else { s with ctlPhase := .dataIn data off len wlen (s.nextPolls polls) }

/-- A request whose whole part is `SendControlData(data, wLength)` (R155): it starts the stage, or
takes the next poll of the stage it holds at. -/
def controlIn (data : List Byte) (wLength : Half) (s : State) : State :=
  match s.ctlPhase with
  | .idle => startControlData data wLength s
  | .addrWait _ _ => startControlData data wLength s
  | .dataIn data off len wlen polls => controlDataPoll data off len wlen polls s

/-! ### Failures (R13, R157, R240, R241) -/

/-- Why a protocol stall is raised; recorded nowhere (R157, R240, D39). -/
inductive StallReason where
  | notSetup
  | unsupported
  | noSuchDescriptor
  | badConfiguration
  deriving DecidableEq, Repr, Inhabited

/-- `raise ProtocolStall(reason)`, which is `STALL(reason)` (R13, R157): EP0 is stalled, the handler
is at its end, nothing else changes. -/
def protocolStall (_reason : StallReason) (s : State) : State :=
  { ep0ForceStall s with ctlPhase := .idle }

/-- Why a command fails; recorded nowhere (R240, D39). -/
inductive TransportReason where
  | pllLock
  | kbTransmit
  deriving DecidableEq, Repr, Inhabited

/-- The foreground command in flight returns a value to its caller (R47, R241). -/
def finishCommand (r : Result) (s : State) : State :=
  { s with fg := .idle, results := s.results ++ [r] }

/-- `raise TransportFailure(reason)`: the command returns `false`; what it wrote stays written
(R13, R241). -/
def transportFailure (_reason : TransportReason) (r : Result) (s : State) : State :=
  finishCommand r s

/-! ### Interrupt entry and exit (R244 to R246, R251) -/

/-- Interrupt entry: `in_handler <- 1` and the source's pending bit `<- 0`; for `A_GEN` the cause
bits too, which the caller has read first (R150, R251).  Nothing is saved: `int_enable` and every
other register stay, and there is no vector (R251). -/
def enterHandler (h : Handler) (s : State) : State :=
  match h with
  | .tick => { s with inHandler := true, pendTick := false }
  | .gen =>
    { s with inHandler := true, pendGen := false, causeEorst := false, causeSof := false }
  | .ep => { s with inHandler := true, pendEp := false }

/-- Interrupt exit, the return from a handler: `in_handler <- 0`; nothing is restored (R251). -/
def leaveHandler (s : State) : State := { s with inHandler := false }

/-! ### The interrupt-disabled window (R75) -/

/-- `S.int_enable <- 0`; the caller keeps the saved value. -/
def openWindow (s : State) : State := { s with intEnable := false }

/-- `S.int_enable <- saved`. -/
def closeWindow (saved : Bool) (s : State) : State := { s with intEnable := saved }

end Sys2Proof.Machine
end

