-- ==== Sys2Proof/Machine/Commands.lean ====
section
/-! DEFINITION. The foreground commands of 44_usb_commands.md: `USB_SETUP` (R206), `SEND_KEYPRESS`
(R208) with `TRANSMIT` (R210), `HAS_CONFIGURED` (R212).

A command is not atomic: a handler may run between any two of its numbered steps (R69, R73, R205).
One call of a meaning is one such step; `State.fg` says which, and holds what the command carries
from step to step. -/

namespace Sys2Proof.Machine

/-! ### USB_SETUP -/

/-- The foreground goes on to a step of `USB_SETUP`. -/
def toSetupStep (pos : SetupPos) (s : State) : State := { s with fg := .usbSetup pos }

/-- One numbered step of `USB_SETUP` after the first (R206); step 3 is one read of `pll_locked`,
and gives up after exactly `PLL_LOCK_CEILING` of them (R207 (b)). -/
def setupStep (pos : SetupPos) (s : State) : State :=
  match pos with
  | .step2 => toSetupStep (.step3 0) { s with pllOn := true }
  | .step3 polls =>
    if s.cfg.pllLockCeiling ≤ polls then transportFailure .pllLock (.usbSetup false) s
    else if s.pllLocked then toSetupStep .step4 s
    else if s.cfg.pllLockCeiling ≤ polls + 1 then transportFailure .pllLock (.usbSetup false) s
    else toSetupStep (.step3 (polls + 1)) s
  | .step4 => toSetupStep .step5 { s with usbOn := true }
  | .step5 => toSetupStep .step6 { s with giEnEorst := true, giEnSof := true }
  | .step6 => finishCommand (.usbSetup true) { s with attached := true }

/-- `USB_SETUP` (R206).  A call after one that returned `true` is refused (R207 (d), U7). -/
def execUsbSetup (s : State) : Host.Outcome State Fault Refusal :=
  if s.inHandler then .refused .commandFromInterrupt
  else
    match s.fg with
    | .idle =>
      if s.attached then .refused .setupRepeated
      else .next (toSetupStep .step2 { s with padRegOn := true })
    | .usbSetup pos => .next (setupStep pos s)
    | .kpTake _ => .refused .commandInFlight
    | .send _ _ _ => .refused .commandInFlight

/-! ### SEND_KEYPRESS and TRANSMIT -/

/-- The foreground goes on to a step of `SEND_KEYPRESS(key, mod)`. -/
def toSendStep (key mod : Byte) (pos : SendPos) (s : State) : State :=
  { s with fg := .send key mod pos }

/-- What a `SEND_KEYPRESS` that returns `false` leaves in the report fields: under `keep` what was
written (R208, R209), under the alternative of U2 zeros. -/
def afterSendFailure (s : State) : State :=
  match s.cfg.sendFailPolicy with
  | .keep => s
  | .clear => { s with modifierKeys := 0, keyboardKeys := s.keyboardKeys.set 0 0 }

/-- `TRANSMIT(n)` returns `false`, and with it the command (R208, R210). -/
def transmitFails (s : State) : State :=
  transportFailure .kbTransmit (.sendKeypress false)
    (afterSendFailure { s with sendPhase := .none })

/-- `TRANSMIT(n)` returns `true`: after the first the command goes on to step 4, after the second
it returns `true` (R208). -/
def transmitSucceeds (key mod : Byte) (n : TxOrd) (s : State) : State :=
  match n with
  | .first => toSendStep key mod .step4 s
  | .second => finishCommand (.sendKeypress true) s

/-- `(FrameNum() + TX_FRAME_CEILING) mod 2^FRAME_W` (R210). -/
def State.transmitDeadline (s : State) : Nat :=
  (s.frame + Config.txFrameCeiling) % 2 ^ s.cfg.frameW

/-- One step of `SEND_KEYPRESS(key, mod)` after the first: steps 2, 4, 5 of R208 and `t0` to `t6` of
R210. -/
def sendStep (key mod : Byte) (pos : SendPos) (s : State) : State :=
  match pos with
  | .step2 =>
    toSendStep key mod (.t0 .first) { s with keyboardKeys := s.keyboardKeys.set 0 key }
  | .t0 n => if s.configured then toSendStep key mod (.t1 n) s else transmitFails s
  | .t1 n => toSendStep key mod (.t2 n s.intEnable s.transmitDeadline) (openWindow s)
  | .t2 n saved deadline =>
    if s.kbReady then
      transmitSucceeds key mod n
        { closeWindow saved { pushReport s with idleCount := 0 } with sendPhase := .none }
    else toSendStep key mod (.t3 n saved deadline) s
  | .t3 n saved deadline =>
    toSendStep key mod (.t4 n deadline)
      { closeWindow saved s with sendPhase := .txPoll n deadline }
  | .t4 n deadline =>
    if s.configured then toSendStep key mod (.t5 n deadline) s else transmitFails s
  | .t5 n deadline =>
    if s.frame = deadline then transmitFails s else toSendStep key mod (.t6 n deadline) s
  | .t6 n deadline => toSendStep key mod (.t2 n s.intEnable deadline) (openWindow s)
  | .step4 => toSendStep key mod .step5 { s with modifierKeys := 0 }
  | .step5 =>
    toSendStep key mod (.t0 .second) { s with keyboardKeys := s.keyboardKeys.set 0 0 }

/-- `SEND_KEYPRESS(key, mod)` (R208). -/
def execSendKeypress (key mod : Byte) (s : State) : Host.Outcome State Fault Refusal :=
  if s.inHandler then .refused .commandFromInterrupt
  else
    match s.fg with
    | .idle => .next (toSendStep key mod .step2 { s with modifierKeys := mod })
    | .send key' mod' pos =>
      if key' = key ∧ mod' = mod then .next (sendStep key mod pos s)
      else .refused .commandInFlight
    | .kpTake _ => .refused .commandInFlight
    | .usbSetup _ => .refused .commandInFlight

/-! ### HAS_CONFIGURED -/

/-- `HAS_CONFIGURED` (R212): one atomic read.  From interrupt context it is harmless (R252); from the
foreground it needs that no command is in flight (R205). -/
def execHasConfigured (s : State) : Host.Outcome State Fault Refusal :=
  if s.inHandler || s.fg == .idle then
    .next { s with results := s.results ++ [.hasConfigured s.configured] }
  else .refused .commandInFlight

end Sys2Proof.Machine
end

