-- ==== Sys2Proof/Machine/EndpointInterrupt.lean ====
section
/-! DEFINITION. The endpoint interrupt: `EP_INT` (R154) and `STALL` (R157) of
41_usb_interrupts.md.

`EP_INT` ends where it has selected a row: the request it selects is the next operation of the
same run of `A_EP` (only `ENV` can act in between, R73), so `setup_pkt` is where that operation is
fetched from. -/

namespace Sys2Proof.Machine

/-- `EP_INT` (R154): a spurious interrupt stalls and reads nothing; a new SETUP packet is read into
`setup_pkt` and acknowledged. -/
def execEpInt (rxstp : Bool) (s : State) : Host.Outcome State Fault Refusal :=
  let s := { s with pendEp := false }
  if rxstp then .next { ep0AckSetup (readSetup s) with ctlPhase := .idle }
  else .next (protocolStall .notSetup s)

/-- `STALL`, as the default row of the dispatch (R157). -/
def execStall (_w : Setup64) (s : State) : Host.Outcome State Fault Refusal :=
  .next (protocolStall .unsupported s)

end Sys2Proof.Machine
end

