-- ==== Sys2Proof/Machine/GeneralInterrupt.lean ====
section
/-! DEFINITION. The operations of the general interrupt: `GI_EORST` (R151) and `GI_SOF` (R152) of
41_usb_interrupts.md. -/

namespace Sys2Proof.Machine

/-- The EP0 configuration that end-of-reset writes (R151). -/
def ep0CfgAfterReset : Ep0Cfg := ⟨true, .control, Config.ep0Size, 1, true⟩

/-- `sof_div` after an end-of-reset that keeps the other HidState fields: the pseudocode of R151 and
vector GE3 keep it, R271 and D10 zero it under every scope; the parameter says which (DESIGN CHOICE,
log entry 40). -/
def keptSofDiv (s : State) : BitVec 2 :=
  match s.cfg.sofDivReset with
  | .withHidState => s.sofDiv
  | .always => 0

/-- The HidState fields that end-of-reset returns to their defaults, and `sof_div` (R151, R271). -/
def resetHidState (s : State) : State :=
  match s.cfg.eorstResetScope with
  | .all =>
    { s with
      configuration := 0
      modifierKeys := 0
      keyboardKeys := Vector.replicate 6 0
      protocol := s.cfg.protocolDefault
      idleConfig := s.cfg.idleDefault
      idleCount := 0
      sofDiv := 0 }
  | .configurationOnly => { s with configuration := 0, sofDiv := keptSofDiv s }

/-- `GI_EORST` (R151). -/
def execGiEorst (s : State) : Host.Outcome State Fault Refusal :=
  let s := ep0Config ep0CfgAfterReset s
  .next (resetHidState { s with ep0Stall := false, kbCfg := { s.kbCfg with enabled := false } })

/-- One idle unit of 4 frames has passed with the KB endpoint ready: count it, and at the match
start over and push the report (R152). -/
def idleUnit (s : State) : State :=
  if s.idleCount + 1 = s.idleConfig then pushReport { s with idleCount := 0 }
  else { s with idleCount := s.idleCount + 1 }

/-- `GI_SOF` (R152): the counters move only while configured and with a non-zero `idle_config`. -/
def execGiSof (s : State) : Host.Outcome State Fault Refusal :=
  if s.configured && s.idleConfig != 0 then
    let s := { s with sofDiv := s.sofDiv + 1 }
    .next (if s.sofDiv = 0 ∧ s.kbReady then idleUnit s else s)
  else .next s

end Sys2Proof.Machine
end

