-- ==== Sys2Proof/Machine/HidRequests.lean ====
section
/-! DEFINITION. The HID class requests of 43_usb_hid_requests.md (R191 to R195). -/

namespace Sys2Proof.Machine

/-- `GET_REPORT`: the current report (R191). -/
def execGetReport (_wValue wLength : Half) (s : State) : Host.Outcome State Fault Refusal :=
  .next (controlIn (buildReport s) wLength s)

/-- `GET_IDLE`: one byte (R192). -/
def execGetIdle (_wValue wLength : Half) (s : State) : Host.Outcome State Fault Refusal :=
  .next (controlIn [s.idleConfig] wLength s)

/-- `GET_PROTOCOL`: one byte (R194). -/
def execGetProtocol (_wValue wLength : Half) (s : State) : Host.Outcome State Fault Refusal :=
  .next (controlIn [s.protocol] wLength s)

/-- `SET_IDLE`: the high byte of `wValue`, and a new interval starts (R193). -/
def execSetIdle (wValue _wLength : Half) (s : State) : Host.Outcome State Fault Refusal :=
  .next (sendStatusZlp { s with idleConfig := idleOperand wValue, idleCount := 0 })

/-- `SET_PROTOCOL`: the low byte of `wValue`, any value (R195). -/
def execSetProtocol (wValue _wLength : Half) (s : State) : Host.Outcome State Fault Refusal :=
  .next (sendStatusZlp { s with protocol := protocolOperand wValue })

end Sys2Proof.Machine
end

