-- ==== Sys2Proof/Machine/Kcd.lean ====
section
/-! DEFINITION. The key decoder: `TICK` (R131, R133) and `KP_TAKE` (R137) of 40_key_decoder.md. -/

namespace Sys2Proof.Machine

/-- The step of `TICK` for key `k` (R131): pressed sets the held bit `k+3`; just released clears the
held bit and sets the latched bit `k`; otherwise nothing. -/
def keyStep (sw : BitVec 3) (m : BitVec 8) (k : Nat) : BitVec 8 :=
  if sw.getLsbD k then m ||| (1#8 <<< (k + 3))
  else if m.getLsbD (k + 3) then (m &&& ~~~(1#8 <<< (k + 3))) ||| (1#8 <<< k)
  else m

/-- The mask after all three keys (R131). -/
def keyLoop (sw : BitVec 3) (m : BitVec 8) : BitVec 8 := [0, 1, 2].foldl (keyStep sw) m

/-- What the cell holds after an emission of `kp` into a cell that holds `old` (R133, R138, D7). -/
def emittedCell (policy : OverrunPolicy) (old kp : BitVec 3) : BitVec 3 :=
  match policy with
  | .overwrite => kp
  | .dropNew => if old = 0 then kp else old

/-- `HandleKeypress(kp)`: record the Keypress in the cell; a full cell sets `kp_overrun` (R133). -/
def handleKeypress (kp : BitVec 3) (s : State) : State :=
  { s with
    kpOverrun := s.kpOverrun || s.cellFull
    kpCell := emittedCell s.cfg.overrunPolicy s.kpCell kp }

/-- `TICK` (R131). -/
def execTick (sw : BitVec 3) (s : State) : Host.Outcome State Fault Refusal :=
  let m := keyLoop sw s.keyMask
  if gestureDone m then .next { handleKeypress (latchedBits m) s with keyMask := 0 }
  else .next { s with keyMask := m }

/-- `KP_TAKE` (R137): step 1 reads the cell, step 2 clears it if it held a Keypress and returns the
value.  One call is one step; the foreground's position says which. -/
def execKpTake (s : State) : Host.Outcome State Fault Refusal :=
  if s.inHandler then .refused .commandFromInterrupt
  else
    match s.fg with
    | .idle => .next { s with fg := .kpTake s.kpCell }
    | .kpTake v =>
      .next (finishCommand (.kpTake v) { s with kpCell := if v = 0 then s.kpCell else 0 })
    | .usbSetup _ => .refused .commandInFlight
    | .send _ _ _ => .refused .commandInFlight

end Sys2Proof.Machine
end

