-- ==== Sys2Proof/Machine/StandardRequests.lean ====
section
/-! DEFINITION. The standard device requests of 42_usb_standard_requests.md (R173 to R178).

Each runs inside a run of `A_EP` (R170).  A request with holds is called again for each poll; where
it holds is in `ctl_phase` (R31, R155). -/

namespace Sys2Proof.Machine

/-- `GET_STATUS`: two zero bytes, "not self-powered, no remote wakeup" (R173). -/
def execGetStatus (_wValue _wIndex wLength : Half) (s : State) :
    Host.Outcome State Fault Refusal :=
  .next (controlIn [0x00, 0x00] wLength s)

/-- One poll of the wait of `SET_ADDRESS`; the address is written once the zero-length packet has
left, or when a finite ceiling is used up (R174). -/
def addressPoll (addr : BitVec 7) (polls : Nat) (s : State) : State :=
  if s.holdExpired polls || s.txReady then
    { s with devAddr := addr, addrEn := true, ctlPhase := .idle }
  else { s with ctlPhase := .addrWait addr (s.nextPolls polls) }

/-- `SET_ADDRESS` (R174). -/
def execSetAddress (wValue _wIndex _wLength : Half) (s : State) :
    Host.Outcome State Fault Refusal :=
  match s.ctlPhase with
  | .idle => .next { sendStatusZlp s with ctlPhase := .addrWait (addressOperand wValue) 0 }
  | .dataIn _ _ _ _ _ =>
    .next { sendStatusZlp s with ctlPhase := .addrWait (addressOperand wValue) 0 }
  | .addrWait addr polls => .next (addressPoll addr polls s)

/-- The start of `GET_DESCRIPTOR`: a key that is not in the table stalls; otherwise the whole entry
is read and streamed (R175, R176). -/
def descriptorStart (wValue wLength : Half) (s : State) : Host.Outcome State Fault Refusal :=
  match s.cfg.descTable.entry (descriptorKey wValue) with
  | none => .next (protocolStall .noSuchDescriptor s)
  | some bs =>
    match memRead s.cfg.descTable (descriptorKey wValue) 0 bs.length with
    | some data => .next (startControlData data wLength s)
    | none => .fault .descOutOfRange

/-- `GET_DESCRIPTOR`, the same for either recipient and any `wIndex` (R175): it starts, or takes the
next poll of the data stage it holds at. -/
def getDescriptor (wValue wLength : Half) (s : State) : Host.Outcome State Fault Refusal :=
  match s.ctlPhase with
  | .idle => descriptorStart wValue wLength s
  | .addrWait _ _ => descriptorStart wValue wLength s
  | .dataIn data off len wlen polls => .next (controlDataPoll data off len wlen polls s)

/-- `GET_DESCRIPTOR`, recipient device (R175). -/
def execGetDescriptorDevice (wValue _wIndex wLength : Half) (s : State) :
    Host.Outcome State Fault Refusal :=
  getDescriptor wValue wLength s

/-- `GET_DESCRIPTOR`, recipient interface (R175, 90_conflicts.md C4). -/
def execGetDescriptorInterface (wValue _wIndex wLength : Half) (s : State) :
    Host.Outcome State Fault Refusal :=
  getDescriptor wValue wLength s

/-- `GET_CONFIGURATION`: one byte (R177). -/
def execGetConfiguration (_wValue _wIndex wLength : Half) (s : State) :
    Host.Outcome State Fault Refusal :=
  .next (controlIn [s.configuration] wLength s)

/-- The configuration of the keyboard endpoint that `SET_CONFIGURATION` writes (R34, R178). -/
def State.kbCfgEnabled (s : State) : KbCfg :=
  ⟨true, .interrupt, .dirIn, s.cfg.kbEpSize, s.cfg.kbEpBanks⟩

/-- `SET_CONFIGURATION` (R178): any value but `CONFIG_VALUE` stalls and changes nothing. -/
def execSetConfiguration (wValue _wIndex _wLength : Half) (s : State) :
    Host.Outcome State Fault Refusal :=
  if configurationValid wValue then
    let s := { s with configuration := Config.configValue }
    let s := sendStatusZlp s
    let s := kbConfig s.kbCfgEnabled s
    .next (epReset .kb s)
  else .next (protocolStall .badConfiguration s)

end Sys2Proof.Machine
end

