-- ==== Sys2Proof/Machine/Dispatch.lean ====
section
/-! DEFINITION. One arm per operation. -/

namespace Sys2Proof.Machine

def exec (i : Instr) (s : State) : Host.Outcome State Fault Refusal :=
  match i with
  | .tick sw => Sys2Proof.Machine.execTick sw s
  | .kpTake => Sys2Proof.Machine.execKpTake s
  | .giEorst => Sys2Proof.Machine.execGiEorst s
  | .giSof => Sys2Proof.Machine.execGiSof s
  | .epInt rxstp => Sys2Proof.Machine.execEpInt rxstp s
  | .getStatus wValue wIndex wLength => Sys2Proof.Machine.execGetStatus wValue wIndex wLength s
  | .setAddress wValue wIndex wLength => Sys2Proof.Machine.execSetAddress wValue wIndex wLength s
  | .getDescriptorDevice wValue wIndex wLength => Sys2Proof.Machine.execGetDescriptorDevice wValue wIndex wLength s
  | .getDescriptorInterface wValue wIndex wLength => Sys2Proof.Machine.execGetDescriptorInterface wValue wIndex wLength s
  | .getConfiguration wValue wIndex wLength => Sys2Proof.Machine.execGetConfiguration wValue wIndex wLength s
  | .setConfiguration wValue wIndex wLength => Sys2Proof.Machine.execSetConfiguration wValue wIndex wLength s
  | .getReport wValue wLength => Sys2Proof.Machine.execGetReport wValue wLength s
  | .getIdle wValue wLength => Sys2Proof.Machine.execGetIdle wValue wLength s
  | .getProtocol wValue wLength => Sys2Proof.Machine.execGetProtocol wValue wLength s
  | .setIdle wValue wLength => Sys2Proof.Machine.execSetIdle wValue wLength s
  | .setProtocol wValue wLength => Sys2Proof.Machine.execSetProtocol wValue wLength s
  | .stall w => Sys2Proof.Machine.execStall w s
  | .usbSetup => Sys2Proof.Machine.execUsbSetup s
  | .sendKeypress key mod => Sys2Proof.Machine.execSendKeypress key mod s
  | .hasConfigured => Sys2Proof.Machine.execHasConfigured s

end Sys2Proof.Machine
end

