-- ==== Sys2Proof/Machine/Agents.lean ====
section
/-! DEFINITION. The agents of rule R20 and how their moves interleave (R72, R73, R244 to R251).

The schedule in State says who moves next; where it says nothing the move is a free value
(R247, R250, U13).  A move that is not enabled is no step of its agent: the state stays.  The block
fetches no instruction stream; what stands in place of the fetch is the word of a format that a
handler finds at a port, at its cause latches or in `setup_pkt` (R31, R94, R95, R96). -/

namespace Sys2Proof.Machine

/-! ### The environment -/

/-- The bytes the EP0 receive FIFO holds after a SETUP packet arrived while one was pending or being
served: any value (R246, U3; log entry 8). -/
def freeFifo (draws : Nat) : List Byte :=
  (List.range 8).map fun i => Config.ep0FreeByte (draws + i)

/-- A SETUP packet arrives (R246): the UDC ends a stall (R35), `ep0_rxstp` is 1 (R44), and the one EP0
bank holds the packet's bytes (R62; what else stood there, log entry 39).  It raises the endpoint
interrupt where `rxstp_int_en = 1`; where that is 0 the rest happens all the same (DEDUCED, log
entry 14). -/
def setupArrives (w : Setup64) (s : State) : State :=
  let t :=
    { s with
      ep0Rxstp := true, ep0Stall := false, ep0Banks := []
      pendEp := s.pendEp || s.ep0Cfg.rxstpIntEn }
  if s.pendEp || s.inHandler then { t with ep0Rx := freeFifo s.draws, draws := s.draws + 8 }
  else { t with ep0Rx := Setup64.bytes w }

/-- Port `ep0_rxstp` changes, as a port may at any time (R44, R73 (d), U10): becoming 1 raises the
endpoint interrupt where `rxstp_int_en = 1`.  The port alone is no packet: it ends no stall and moves
no byte, and where an endpoint interrupt is pending for another cause `EP_INT` then runs with
`rxstp = 1`, before the first `GI_EORST` too (DESIGN CHOICE, log entry 45). -/
def rxstpChanges (b : Bool) (s : State) : State :=
  { s with
    ep0Rxstp := b
    pendEp := s.pendEp || (b && !s.ep0Rxstp && s.ep0Cfg.rxstpIntEn) }

/-- The host collects the oldest packet of an endpoint; the ready flag becomes 1 (R48, R108). -/
def collectPacket (ep : Ep) (s : State) : State :=
  match ep with
  | .ep0 =>
    match s.ep0Banks with
    | [] => s
    | _ :: rest => { s with ep0Banks := rest, ep0Txini := true }
  | .kb =>
    match s.kbBanks with
    | [] => s
    | _ :: rest => { s with kbBanks := rest, kbRwal := true }

/-- End of a USB bus reset (R36, R43, R245): the UDC clears the address and the packets in its banks;
the cause is latched only if enabled.  Received bytes not yet read stay in the EP0 FIFO (DEDUCED, log
entry 16). -/
def busResetEnds (s : State) : State :=
  { s with
    devAddr := 0
    addrEn := false
    ep0Banks := []
    kbBanks := []
    causeEorst := s.causeEorst || s.giEnEorst
    pendGen := s.pendGen || s.giEnEorst }

/-- Start of frame (R43, R45, R245): the frame counter advances in any case; the cause is latched
only if enabled. -/
def frameStarts (s : State) : State :=
  { s with
    frameNum := (s.frameNum + 1) % 2 ^ s.cfg.frameW
    causeSof := s.causeSof || s.giEnSof
    pendGen := s.pendGen || s.giEnSof }

/-- One action of `ENV`. -/
def applyEnv (e : EnvEvent) (s : State) : State :=
  match e with
  | .sw v => { s with sw := v }
  | .tick => { s with pendTick := true }
  | .eorst => busResetEnds s
  | .sof => frameStarts s
  | .setup w => setupArrives w s
  | .epint => if s.ep0Rxstp then s else { s with pendEp := true }
  | .collect ep => collectPacket ep s
  | .rxstp b => rxstpChanges b s
  | .rxout b => { s with ep0Rxout := b }
  | .txini b => { s with ep0Txini := b }
  | .rxFifo bs => { s with ep0Rx := bs.take Config.ep0Size }
  | .kbRwal b => { s with kbRwal := b }
  | .pll b => { s with pllLocked := b }
  | .ledTick => s
  | .enableInt => if s.fg = .idle ∧ s.inHandler = false then { s with intEnable := true } else s

/-! ### What a handler fetches -/

/-- The word a starting handler decodes: the switch sample, the cause latches, `ep0_rxstp`
(R91, R94, R95). -/
def handlerWord (h : Handler) (s : State) : Format × Setup64 :=
  match h with
  | .tick => (.k, s.sw.setWidth 64)
  | .gen => (.g, (BitVec.ofBool s.causeEorst ++ BitVec.ofBool s.causeSof).setWidth 64)
  | .ep => (.e, (BitVec.ofBool s.ep0Rxstp).setWidth 64)

/-- The SETUP word `A_EP` serves once `EP_INT` has parsed it (R96, R154). -/
def requestWord (s : State) : Format × Setup64 := (.s, s.setupPkt.word)

/-- The operations a word selects; none for a word its format does not have (no handler meets
one). -/
def operationsOf (kbIf : Half) (word : Format × Setup64) : List Instr :=
  match decode kbIf word.1 word.2 with
  | .ok is => is
  | .error _ => []

/-! ### Running operations -/

/-- Go on with a next state; a fault or a refusal ends the step. -/
def andThen (o : Host.Outcome State Fault Refusal)
    (f : State → Host.Outcome State Fault Refusal) : Host.Outcome State Fault Refusal :=
  match o with
  | .next s => f s
  | .fault r => .fault r
  | .refused r => .refused r

/-- Run operations one after the other, with nothing in between (R150). -/
def runAll : List Instr → State → Host.Outcome State Fault Refusal
  | [], s => .next s
  | i :: is, s => andThen (exec i s) (runAll is)

/-- A handler's run is over unless `A_EP` has a request to serve (R154, R244 to R246). -/
def afterStart (h : Handler) (rxstp : Bool) (s : State) : State :=
  match h with
  | .tick => leaveHandler s
  | .gen => leaveHandler s
  | .ep => if rxstp then s else leaveHandler s

/-- `A_EP`'s run is over when the request it serves stands at no hold (R155). -/
def afterRequest (s : State) : State := if s.ctlPhase = .idle then leaveHandler s else s

/-- A handler starts, if it may (R244 to R246). -/
def startHandler (h : Handler) (s : State) : Host.Outcome State Fault Refusal :=
  if s.mayStart h then
    andThen (runAll (operationsOf s.cfg.keyboardInterface (handlerWord h s)) (enterHandler h s))
      fun t => .next (afterStart h s.ep0Rxstp t)
  else .next s

/-- The running handler takes its next step: `A_EP` starts, or goes on with, the request in
`setup_pkt` (R154, R155). -/
def advanceHandler (s : State) : Host.Outcome State Fault Refusal :=
  if s.inHandler then
    andThen (runAll (operationsOf s.cfg.keyboardInterface (requestWord s)) s)
      fun t => .next (afterRequest t)
  else .next s

/-- The foreground takes the next step of its command, unless a handler is running (R249, R250). -/
def advanceForeground (s : State) : Host.Outcome State Fault Refusal :=
  if s.inHandler then .next s
  else
    match s.fg.command with
    | none => .next s
    | some c => exec c.toInstr s

/-- The foreground calls a command.  While a handler runs, a hold of `A_EP` among its states, the
foreground does not advance, so it calls nothing (R73 (b), R249); while a command is in flight a call
is refused (U8, R205). -/
def issueCommand (c : Command) (s : State) : Host.Outcome State Fault Refusal :=
  if s.inHandler then .next s
  else if s.fg = .idle then exec c.toInstr s
  else .refused .commandInFlight

/-! ### The schedule -/

/-- Who moves next: the schedule's first move, or a free value where it has none (R250, U13). -/
def State.nextChoice (s : State) : Choice :=
  match s.sched with
  | [] => Config.envChoice s.draws
  | c :: _ => c

/-- The state with that move used up. -/
def State.takeChoice (s : State) : State :=
  match s.sched with
  | [] => { s with draws := s.draws + 1 }
  | _ :: rest => { s with sched := rest }

/-- One move. -/
def stepChoice (c : Choice) (s : State) : Host.Outcome State Fault Refusal :=
  match c with
  | .env e => .next (applyEnv e s)
  | .start h => startHandler h s
  | .advance => advanceHandler s
  | .fg => advanceForeground s
  | .issue c => issueCommand c s

/-! ### Placing a word where it is fetched -/

/-- A word of a format stands where the next step fetches it: at the switch port with the tick
pending, in the cause latches with the general interrupt pending, at `ep0_rxstp` with the endpoint
interrupt pending, or in `setup_pkt` with `A_EP` about to serve it.  The schedule's next move is the
one that fetches. -/
def placeWord (f : Format) (w : Setup64) (s : State) : State :=
  match f with
  | .k =>
    { s with
      sw := w.setWidth 3, pendTick := true, intEnable := true, inHandler := false
      sched := .start .tick :: s.sched }
  | .g =>
    { s with
      causeEorst := w.getLsbD 1, causeSof := w.getLsbD 0, pendGen := true, intEnable := true
      inHandler := false, sched := .start .gen :: s.sched }
  | .e =>
    { s with
      ep0Rxstp := w.getLsbD 0, pendEp := true, intEnable := true, inHandler := false
      sched := .start .ep :: s.sched }
  | .s =>
    { s with
      setupPkt := .ofWord w, inHandler := true, ctlPhase := .idle
      sched := .advance :: s.sched }

end Sys2Proof.Machine
end

