-- ==== Sys2Proof/Machine/Step.lean ====
section
/-! DEFINITION. One step of the block: one move of the schedule (R72, R250). -/

namespace Sys2Proof.Machine

/-- One step. -/
def step (s : State) : Host.Outcome State Fault Refusal := stepChoice s.nextChoice s.takeChoice

/-- The state with a word of spec/opcode_table.json placed where the next step fetches it. -/
def State.withFetchWord (s : State) (nbits w : Nat) : State :=
  placeWord (tableFormat nbits w) (BitVec.ofNat 64 w) s

end Sys2Proof.Machine
end

