-- ==== Sys2Proof/Safety.lean ====
section
/-! DEFINITION. The terms claims are stated in: what a good state is, what a gesture and a data
stage amount to, and what is assumed of the schedule. -/

namespace Sys2Proof.Machine

/-! ### Runs -/

/-- A state that some run from reset with admissible parameters reaches, whatever the schedule. -/
inductive Reachable : State → Prop where
  | start (p : Params) (h : p.wf = true) (cs : List Choice) :
      Reachable { State.resetWith p with sched := cs }
  | step {s t : State} (h : Reachable s) (hs : step s = .next t) : Reachable t

/-- `n` steps, one after the other. -/
def stepN : Nat → State → Host.Outcome State Fault Refusal
  | 0, s => .next s
  | n + 1, s => andThen (step s) (stepN n)

/-- No Keypress was ever overwritten: the schedule kept the hazard rule R282 (R138, U1). -/
def State.overrunFree (s : State) : Bool := !s.kpOverrun

/-- This move starts a pending handler. -/
def State.starts (s : State) (h : Handler) : Prop :=
  s.nextChoice = .start h ∧ s.mayStart h = true

/-- Fairness of an infinite run (R250): a handler that may start again and again, in the openings
between the windows of a polling foreground too, does start: a pending handler is not postponed for
ever.  Liveness claims assume it; one step cannot show it (log entry 12). -/
def WeaklyFair (run : Nat → State) : Prop :=
  ∀ h n, (∀ k, n ≤ k → ∃ m, k ≤ m ∧ (run m).mayStart h = true) → ∃ m, n ≤ m ∧ (run m).starts h

/-- The ready flags agree with the banks: the reference environment (R48). -/
def State.refFlags (s : State) : Bool :=
  (s.ep0Txini == (s.ep0Cfg.enabled && s.ep0Banks.isEmpty)) &&
    (s.kbRwal == (s.kbCfg.enabled && decide (s.kbBanks.length < s.kbCfg.banks)))

/-! ### Gestures (R132, R134) -/

/-- The latched bits after a tick with sample `sw`: `l | (h & ~sw)` (R132). -/
def latchedAfter (sw : BitVec 3) (m : BitVec 8) : BitVec 3 :=
  latchedBits m ||| (heldBits m &&& ~~~sw)

/-- The mask with held bits `h` and latched bits `l`, bits 7:6 zero (R21, R132). -/
def maskOf (h l : BitVec 3) : BitVec 8 := (h.setWidth 8 <<< 3) ||| l.setWidth 8

/-- Every switch touched during a run of samples (R134). -/
def touched (samples : List (BitVec 3)) : BitVec 3 := samples.foldl (· ||| ·) 0

/-- The state after exactly one emission of `kp` (R133). -/
def emitted (kp : BitVec 3) (s : State) : State := { handleKeypress kp s with keyMask := 0 }

/-! ### Data stages (R171, R176) -/

/-- The packets of a whole data stage: full packets of 32 bytes, packet `p` carrying bytes
`32p ..`, then one short packet, possibly of zero length, unless exactly `wlen` bytes, and some,
went out in full packets (R171, R176). -/
def dataStagePackets (data : List Byte) (wlen : Nat) : List (List Byte) :=
  let len := min data.length wlen
  (List.range (len / 32)).map (fun p => (data.drop (32 * p)).take 32) ++
    if len % 32 = 0 ∧ len = wlen ∧ len ≠ 0 then []
    else [(data.drop (32 * (len / 32))).take (len % 32)]

/-- The schedule of a host that lifts each of `n` holds of a data stage in turn: it collects the
packet before, if there is one, and EP0 is ready again. -/
def hostLifts : Nat → List Choice
  | 0 => []
  | n + 1 => .env (.collect .ep0) :: .env (.txini true) :: .advance :: hostLifts n

/-! ### The dispatch table -/

/-- The row of the dispatch table an operation of format S stands in; `none` for the rest. -/
def setupRowOf : Instr → Option Nat
  | .getStatus _ _ _ => some 0
  | .setAddress _ _ _ => some 1
  | .getDescriptorDevice _ _ _ => some 2
  | .getDescriptorInterface _ _ _ => some 3
  | .getConfiguration _ _ _ => some 4
  | .setConfiguration _ _ _ => some 5
  | .getReport _ _ => some 6
  | .getIdle _ _ => some 7
  | .getProtocol _ _ => some 8
  | .setIdle _ _ => some 9
  | .setProtocol _ _ => some 10
  | .tick _ => none
  | .kpTake => none
  | .giEorst => none
  | .giSof => none
  | .epInt _ => none
  | .stall _ => none
  | .usbSetup => none
  | .sendKeypress _ _ => none
  | .hasConfigured => none

/-- The operations of the key decoder; all others belong to the HID engine (R4, R52). -/
def isKcd : Instr → Bool
  | .tick _ => true
  | .kpTake => true
  | _ => false

/-! ### Outcomes -/

/-- Apply a function to the next state, if there is one. -/
def mapNext (f : State → State) (o : Host.Outcome State Fault Refusal) :
    Host.Outcome State Fault Refusal :=
  andThen o fun s => .next (f s)

/-! ### The invariants (R49) -/

/-- The control phase is within its data (R31, R171): at a hold of a data stage whole packets have
gone out, and the stage is not past its length. -/
def CtlPhase.ok : CtlPhase → Bool
  | .idle => true
  | .addrWait _ _ => true
  | .dataIn data off len wlen _ =>
    decide (off ≤ len) && decide (len ≤ data.length) && decide (len ≤ wlen) &&
      decide (off % 32 = 0)

/-- `send_phase` and `int_enable` agree with where the foreground stands (R31, R75, R210): inside
the window interrupts are off; `TX_POLL` stands exactly while a transmit waits. -/
def State.sendOk (s : State) : Bool :=
  match s.fg with
  | .send _ _ (.t2 n _ d) =>
    !s.intEnable && (s.sendPhase == .none || s.sendPhase == .txPoll n d)
  | .send _ _ (.t3 n _ d) =>
    !s.intEnable && (s.sendPhase == .none || s.sendPhase == .txPoll n d)
  | .send _ _ (.t4 n d) => s.sendPhase == .txPoll n d
  | .send _ _ (.t5 n d) => s.sendPhase == .txPoll n d
  | .send _ _ (.t6 n d) => s.sendPhase == .txPoll n d
  | .send _ _ .step2 => s.sendPhase == .none
  | .send _ _ .step4 => s.sendPhase == .none
  | .send _ _ .step5 => s.sendPhase == .none
  | .send _ _ (.t0 _) => s.sendPhase == .none
  | .send _ _ (.t1 _) => s.sendPhase == .none
  | .idle => s.sendPhase == .none
  | .kpTake _ => s.sendPhase == .none
  | .usbSetup _ => s.sendPhase == .none

/-- The bring-up flags go on in their order, the pull-up last (R206). -/
def State.bringUpOk (s : State) : Bool :=
  (!s.pllOn || s.padRegOn) && (!s.usbOn || s.pllOn) && (!s.giEnEorst || s.usbOn) &&
    (s.giEnEorst == s.giEnSof) && (!s.attached || s.giEnEorst) &&
    match s.fg with
    | .usbSetup .step2 => s.padRegOn && !s.attached
    | .usbSetup (.step3 _) => s.pllOn && !s.attached
    | .usbSetup .step4 => s.pllOn && !s.attached
    | .usbSetup .step5 => s.usbOn && !s.attached
    | .usbSetup .step6 => s.giEnEorst && !s.attached
    | .idle => true
    | .kpTake _ => true
    | .send _ _ _ => true

/-- A packet of the block: at most 32 bytes on EP0, a report of 8 bytes on the KB endpoint
(R62, R63). -/
def Packet.ok (kbEp : BitVec 4) (p : Packet) : Bool :=
  (p.ep == 0 && decide (p.bytes.length ≤ 32)) || (p.ep == kbEp && decide (p.bytes.length = 8))

/-- The packets committed on one endpoint, in the order of their `EpSend` (R79). -/
def sentOn (ep : BitVec 4) (log : List Packet) : List (List Byte) :=
  (log.filter (·.ep == ep)).map Packet.bytes

/-- The invariants of rule R49 and of the rules that each line names. -/
structure MachineInv (s : State) : Prop where
  /-- `key_mask[7:6] == 0` (R21, R49). -/
  maskTop : s.keyMask.extractLsb' 6 2 = 0
  /-- `keyboard_keys[1..5] == 0` (R26, R49). -/
  keySlots : s.keyboardKeys.toList.tail = [0, 0, 0, 0, 0]
  /-- `configuration` is 0 or 1 (R24, R49). -/
  configuration : s.configuration = 0 ∨ s.configuration = Config.configValue
  /-- `kb_cfg.enabled == 1` implies `configuration == 1` (R49). -/
  kbEnabled : s.kbCfg.enabled = true → s.configuration = Config.configValue
  /-- `idle_count` has not passed `idle_config` (R152, D27). -/
  idle : s.idleCount = 0 ∨ s.idleCount < s.idleConfig
  /-- Between handlers `A_EP` stands at no hold (R31, R249). -/
  noHold : s.inHandler = false → s.ctlPhase = .idle
  /-- R31, R171. -/
  phase : s.ctlPhase.ok = true
  /-- R31, R75, R210. -/
  send : s.sendOk = true
  /-- R206. -/
  bringUp : s.bringUpOk = true
  /-- No byte is left uncommitted between steps (R12, R63). -/
  fifos : s.ep0Tx = [] ∧ s.kbTx = []
  /-- The EP0 FIFO is one bank of 32 bytes (R60, R62). -/
  ep0Sizes : s.ep0Rx.length ≤ Config.ep0Size ∧ s.ep0Banks.length ≤ 1 ∧
    ∀ p ∈ s.ep0Banks, p.length ≤ Config.ep0Size
  /-- The KB FIFO is `KB_EP_BANKS` banks of 8 bytes (R60, R63). -/
  kbSizes : s.kbBanks.length ≤ s.cfg.kbEpBanks ∧ ∀ p ∈ s.kbBanks, p.length ≤ Config.reportLen
  /-- What stands in an endpoint's banks was committed there, and in that order (R79). -/
  order : s.ep0Banks.Sublist (sentOn 0 s.txLog) ∧ s.kbBanks.Sublist (sentOn s.cfg.kbEp s.txLog)
  /-- `frame_num` has `FRAME_W` bits (R45). -/
  frame : s.frameNum < 2 ^ s.cfg.frameW
  /-- R62, R63. -/
  log : ∀ p ∈ s.txLog, p.ok s.cfg.kbEp = true

end Sys2Proof.Machine
end

