-- ==== Sys2Proof/Certificates/Slice0/Obligations.lean ====
section
/-! DEFINITION. The statements for the provers.  Each docstring names the rule of spec/ it
formalises; `OBLIGATIONS.json` lists them.  A result written as `exec i s = .next { s with … }` is a
completion, a result and a frame in one: every field not named keeps its value, the parameters (and
so every byte of the descriptor ROM) and the logs among them. -/

open Sys2Proof Sys2Proof.Machine

/-! ### Encoding -/

/-- R91, R94, R95, R104: decoding the word of an operation gives back that operation alone, with
every operand at every value.  Foreground commands have no word (R101). -/
def Obligations.DecodeOfEncodeIsTheOperation : Prop :=
  ∀ (kbIf : Half) (i : Instr) (f : Format) (w : Setup64),
    i.wf kbIf = true → encode kbIf i = some (f, w) → decode kbIf f w = .ok [i]

/-- R96, R104: no bit of a SETUP word is dropped: encoding the request it selects gives the word
back, and that request is well formed. -/
def Obligations.EncodeOfDecodedSetupIsTheWord : Prop :=
  ∀ (kbIf : Half) (w : Setup64),
    encode kbIf (decodeSetup kbIf w) = some (.s, w) ∧ (decodeSetup kbIf w).wf kbIf = true

/-- R103: a SETUP word selects row `n` of the dispatch table just when `(W & mask) == match` for
that row, and is `STALL` just when it matches no row. -/
def Obligations.DispatchFollowsMaskAndMatch : Prop :=
  ∀ (kbIf : Half) (w : Setup64),
    (∀ (n : Nat) (row : SetupRow), (setupRows kbIf)[n]? = some row →
      (w &&& row.mask = row.pattern ↔ setupRowOf (decodeSetup kbIf w) = some n)) ∧
    ((∀ row ∈ setupRows kbIf, w &&& row.mask ≠ row.pattern) ↔ decodeSetup kbIf w = .stall w)

/-- R103: at most one row of the dispatch table matches a word. -/
def Obligations.DispatchRowsAreExclusive : Prop :=
  ∀ (kbIf : Half) (w : Setup64) (m n : Nat) (row row' : SetupRow),
    (setupRows kbIf)[m]? = some row → (setupRows kbIf)[n]? = some row' →
    w &&& row.mask = row.pattern → w &&& row'.mask = row'.pattern → m = n

/-- R96: the fields of a SETUP packet are its bytes in the order and byte order the table gives, the
word has byte `i` at bits `8i+7` to `8i` and so the fields at the bits listed, and no bit is left over.
(R97: the bytes are read in this order, `EpIntParsesTheSetupPacket`.) -/
def Obligations.SetupBytesAreTheFields : Prop :=
  (∀ (b0 b1 b2 b3 b4 b5 b6 b7 : Byte),
    SetupPkt.ofBytes b0 b1 b2 b3 b4 b5 b6 b7 = ⟨b0, b1, b3 ++ b2, b5 ++ b4, b7 ++ b6⟩) ∧
  (∀ (w : Setup64),
    SetupPkt.ofWord w =
      ⟨w.extractLsb' 0 8, w.extractLsb' 8 8, w.extractLsb' 16 16, w.extractLsb' 32 16,
        w.extractLsb' 48 16⟩ ∧
    SetupPkt.ofBytes (w.extractLsb' 0 8) (w.extractLsb' 8 8) (w.extractLsb' 16 8)
      (w.extractLsb' 24 8) (w.extractLsb' 32 8) (w.extractLsb' 40 8) (w.extractLsb' 48 8)
      (w.extractLsb' 56 8) = SetupPkt.ofWord w ∧
    (SetupPkt.ofWord w).word = w)

/-- Words written out from R91, R94, R95 and R109 decode to the operations they stand for. -/
def Obligations.KnownWordsDecode : Prop :=
  decode 0 .k 0b110 = .ok [.tick 0b110] ∧
  decode 0 .g 0b10 = .ok [.giEorst] ∧
  decode 0 .g 0b01 = .ok [.giSof] ∧
  decode 0 .g 0b11 = .ok [.giEorst, .giSof] ∧
  decode 0 .g 0b00 = .ok [] ∧
  decode 0 .e 1 = .ok [.epInt true] ∧
  decodeBytes 0 .s [0x80, 0x06, 0x00, 0x01, 0x00, 0x00, 0x12, 0x00] =
    .ok [.getDescriptorDevice 0x0100 0x0000 0x0012] ∧
  decodeBytes 0 .s [0x00, 0x05, 0x07, 0x00, 0x00, 0x00, 0x00, 0x00] =
    .ok [.setAddress 0x0007 0x0000 0x0000] ∧
  decodeBytes 0 .s [0x21, 0x0A, 0x00, 0x06, 0x00, 0x00, 0x00, 0x00] =
    .ok [.setIdle 0x0600 0x0000] ∧
  decodeBytes 0 .s [0x21, 0x0A, 0x00, 0x06, 0x01, 0x00, 0x00, 0x00] =
    .ok [.stall 0x0000000106000A21]

/-! ### A step runs the decoded operation -/

/-- R244, R245, R150: a pending handler that may start enters, runs the operations its word selects
(the sample `sw`, the causes with end-of-reset first, `ep0_rxstp`) and leaves.  R246, R154 for `A_EP`,
but where that handler's step ends is the model's choice (DESIGN CHOICE, log entry 1): R154 dispatches
inside `EP_INT`; here the step ends at the parse, `in_handler` stays 1 where there is a request to
serve, and the request is a later step (`ServedRequestIsTheDecodedWord`). -/
def Obligations.StartedHandlerRunsItsOperations : Prop :=
  ∀ (s : State) (rest : List Choice),
    s.intEnable = true → s.inHandler = false →
    (s.pendTick = true → s.sched = .start .tick :: rest →
      step s = mapNext (fun t => { t with inHandler := false })
        (exec (.tick s.sw) { s with sched := rest, inHandler := true, pendTick := false })) ∧
    (s.pendGen = true → s.sched = .start .gen :: rest →
      step s = mapNext (fun t => { t with inHandler := false })
        (runAll ((if s.causeEorst then [.giEorst] else []) ++ (if s.causeSof then [.giSof] else []))
          { s with
            sched := rest, inHandler := true, pendGen := false
            causeEorst := false, causeSof := false })) ∧
    (s.pendEp = true → s.sched = .start .ep :: rest →
      step s = mapNext (fun t => { t with inHandler := s.ep0Rxstp && t.inHandler })
        (exec (.epInt s.ep0Rxstp) { s with sched := rest, inHandler := true, pendEp := false }))

/-- R154, R155: while `A_EP` serves a request it runs the operation that the word in `setup_pkt`
decodes to; the handler ends when that operation stands at no hold.  That the request is a step of
its own after `EP_INT`, and is resumed by calling its meaning again at each hold, is the model's
choice (DESIGN CHOICE, log entry 1), not R154's or R155's. -/
def Obligations.ServedRequestIsTheDecodedWord : Prop :=
  ∀ (s : State) (rest : List Choice),
    s.inHandler = true → s.sched = .advance :: rest →
    step s = mapNext (fun t => if t.ctlPhase = .idle then { t with inHandler := false } else t)
      (exec (decodeSetup s.cfg.keyboardInterface s.setupPkt.word) { s with sched := rest })

/-- R101, R205, R250: while no handler runs, a called command, and each later step of the command in
flight, runs that command's operation.  (While one runs the foreground does nothing, R249:
`RunningHandlerShutsOthersOut`.)  One numbered step a call is the model's choice (log entry 1). -/
def Obligations.ForegroundStepRunsItsCommand : Prop :=
  ∀ (s : State) (rest : List Choice),
    (∀ c, s.inHandler = false → s.fg = .idle → s.sched = .issue c :: rest →
      step s = exec c.toInstr { s with sched := rest }) ∧
    (∀ c, s.inHandler = false → s.fg.command = some c → s.sched = .fg :: rest →
      step s = exec c.toInstr { s with sched := rest })

/-- The model's choice (log entry 11): where the schedule is empty, the next move is a free value
that `Config.envChoice` gives for the draw counter. -/
def Obligations.EmptyScheduleDrawsTheMove : Prop :=
  ∀ (s : State), s.sched = [] →
    step s = stepChoice (Config.envChoice s.draws) { s with draws := s.draws + 1 }

/-- R248, R249, R73 (b): while a handler runs, at a hold too, no handler starts, the foreground does
not advance and no command is called, `HAS_CONFIGURED` among them.  Those rules say that the shut-out
agent has no step; that its move in the schedule is a step which only uses the move up is the model's
choice (DESIGN CHOICE, log entry 10). -/
def Obligations.RunningHandlerShutsOthersOut : Prop :=
  ∀ (s : State) (rest : List Choice), s.inHandler = true →
    (∀ h, s.sched = .start h :: rest → step s = .next { s with sched := rest }) ∧
    (s.sched = .fg :: rest → step s = .next { s with sched := rest }) ∧
    (∀ c, s.sched = .issue c :: rest → step s = .next { s with sched := rest })

/-- R75, R290: while `int_enable` is 0 no handler starts; its pending bit stays.  That the move of the
handler that may not start is a step which only uses the move up is the model's choice (DESIGN CHOICE,
log entry 10). -/
def Obligations.DisabledInterruptsHoldHandlersBack : Prop :=
  ∀ (s : State) (h : Handler) (rest : List Choice), s.intEnable = false →
    s.sched = .start h :: rest →
    step s = .next { s with sched := rest } ∧ State.pending { s with sched := rest } h = s.pending h

/-! ### The environment's side of the ports -/

/-- R43, R45, R245: `sof` advances the frame counter in any case and `eorst`, `sof` latch their
cause and pend the general interrupt only where enabled; R36: a bus reset clears the address.  R42,
R244: `tick` sets `pend_tick` and nothing else.  R44, R246: a spurious endpoint interrupt sets
`pend_ep` where `ep0_rxstp = 0` (that it has no effect elsewhere is log entry 15), and `ep0_rxstp`
becoming 1 sets it where the SETUP interrupt is enabled; that the port alone ends no stall is log entry
45.  R35, R44, R62: a SETUP packet ends a stall, sets `ep0_rxstp` and puts its bytes in the FIFO,
whether or not its interrupt is enabled (DEDUCED, log entry 14). -/
def Obligations.EnabledCausesAreLatched : Prop :=
  ∀ (s : State),
    (applyEnv .sof s).frameNum = (s.frameNum + 1) % 2 ^ s.cfg.frameW ∧
    (applyEnv .sof s).causeSof = (s.causeSof || s.giEnSof) ∧
    (applyEnv .sof s).pendGen = (s.pendGen || s.giEnSof) ∧
    (applyEnv .sof s).causeEorst = s.causeEorst ∧
    (applyEnv .eorst s).causeEorst = (s.causeEorst || s.giEnEorst) ∧
    (applyEnv .eorst s).pendGen = (s.pendGen || s.giEnEorst) ∧
    (applyEnv .eorst s).causeSof = s.causeSof ∧
    (applyEnv .eorst s).frameNum = s.frameNum ∧
    (applyEnv .eorst s).devAddr = 0 ∧ (applyEnv .eorst s).addrEn = false ∧
    applyEnv .tick s = { s with pendTick := true } ∧
    applyEnv .epint s = { s with pendEp := s.pendEp || !s.ep0Rxstp } ∧
    applyEnv (.rxstp false) s = { s with ep0Rxstp := false } ∧
    applyEnv (.rxstp true) s =
      { s with
        ep0Rxstp := true
        pendEp := s.pendEp || (!s.ep0Rxstp && s.ep0Cfg.rxstpIntEn) } ∧
    ∀ w : Setup64,
      (applyEnv (.setup w) s).ep0Stall = false ∧ (applyEnv (.setup w) s).ep0Rxstp = true ∧
      (applyEnv (.setup w) s).pendEp = (s.pendEp || s.ep0Cfg.rxstpIntEn) ∧
      (s.pendEp = false → s.inHandler = false →
        (applyEnv (.setup w) s).ep0Rx = Setup64.bytes w)

/-- R246, R97, R154: a SETUP packet that arrives while none is pending or served is read, byte for
byte, into `setup_pkt`; the FIFO and the three EP0 flags are clear (R12, R62), and a stall has ended
(R35).  The end state, parsed with `in_handler = 1` and the request not yet dispatched, is the model's
choice (DESIGN CHOICE, log entry 1: `EP_INT` ends after the parse; R154 dispatches inside it).  That a
packet still in EP0's bank is gone is log entry 39. -/
def Obligations.DeliveredPacketIsServed : Prop :=
  ∀ (s : State) (w : Setup64) (rest : List Choice),
    s.ep0Cfg.rxstpIntEn = true → s.pendEp = false → s.inHandler = false → s.intEnable = true →
    s.sched = .env (.setup w) :: .start .ep :: rest →
    stepN 2 s = .next
      { s with
        sched := rest
        setupPkt := SetupPkt.ofWord w
        inHandler := true
        pendEp := false
        ep0Stall := false
        ep0Rxstp := false
        ep0Rxout := false
        ep0Txini := false
        ep0Rx := []
        ep0Tx := []
        ep0Banks := []
        ctlPhase := .idle }

/-! ### The key decoder -/

/-- R131, R132: the result of `TICK` in closed form: the held bits become the sample, a key latches
when it was held and reads released; with nothing held and something latched, the latched keys are
emitted once (R133) and the mask is zero; the cell of a full block follows `OVERRUN_POLICY` (R138,
D7).  That `kp_overrun` is set under `drop_new` too is the model's reading (DEDUCED, log entry 22).
Premise: bits 7:6 of the mask are 0 (R21; kept by every step, `StepKeepsTheInvariant`). -/
def Obligations.TickFollowsTheClosedForm : Prop :=
  ∀ (sw : BitVec 3) (s : State), s.keyMask.extractLsb' 6 2 = 0 →
    exec (.tick sw) s = .next
      (if sw = 0 ∧ (s.keyMask.extractLsb' 0 3 ||| (s.keyMask.extractLsb' 3 3 &&& ~~~sw)) ≠ 0 then
        { s with
          keyMask := 0
          kpOverrun := s.kpOverrun || s.kpCell != 0
          kpCell :=
            if s.cfg.overrunPolicy = .overwrite ∨ s.kpCell = 0 then
              s.keyMask.extractLsb' 0 3 ||| (s.keyMask.extractLsb' 3 3 &&& ~~~sw)
            else s.kpCell }
      else
        { s with
          keyMask :=
            sw.setWidth 8 <<< 3 |||
              (s.keyMask.extractLsb' 0 3 ||| (s.keyMask.extractLsb' 3 3 &&& ~~~sw)).setWidth 8 })

/-- R135: the order in which the three keys are processed does not matter. -/
def Obligations.TickKeyOrderIsIrrelevant : Prop :=
  ∀ (order : List Nat) (sw : BitVec 3) (m : BitVec 8), order.Perm [0, 1, 2] →
    order.foldl (keyStep sw) m = [0, 1, 2].foldl (keyStep sw) m

/-- R134: over a gesture (samples that are all non-zero) closed by one all-released sample, started
with mask 0, exactly one Keypress is emitted, the OR of every sample, and the mask is 0 again;
before the closing tick nothing is emitted; a tick with nothing pressed outside a gesture changes
nothing.  The clause on `kp_overrun` under `drop_new` is the model's reading (DEDUCED, log entry 22). -/
def Obligations.GestureEmitsTheOrOnce : Prop :=
  ∀ (samples : List (BitVec 3)) (s : State),
    s.keyMask = 0 → samples ≠ [] → (∀ v ∈ samples, v ≠ 0) →
    (∃ m, runAll (samples.map .tick) s = .next { s with keyMask := m }) ∧
    runAll ((samples ++ [0]).map .tick) s = .next
      { s with
        keyMask := 0
        kpOverrun := s.kpOverrun || s.kpCell != 0
        kpCell :=
          if s.cfg.overrunPolicy = .overwrite ∨ s.kpCell = 0 then samples.foldl (· ||| ·) 0
          else s.kpCell } ∧
    exec (.tick 0) s = .next s

/-- R137: step 1 of `KP_TAKE` reads the cell; step 2 clears it if the value read was a Keypress and
returns that value. -/
def Obligations.KpTakeReadsThenClears : Prop :=
  ∀ (s : State) (v : BitVec 3), s.inHandler = false →
    (s.fg = .idle → exec .kpTake s = .next { s with fg := .kpTake s.kpCell }) ∧
    (s.fg = .kpTake v → exec .kpTake s = .next
      { s with
        kpCell := if v ≠ 0 then 0 else s.kpCell
        fg := .idle
        results := s.results ++ [.kpTake v] })

/-- R22, R133: only a `TICK` that ends a gesture puts a Keypress into an empty cell, and it is the
gesture's latched keys, never `INACTIVE`: of the operations, and of all steps of the machine, where it
is `A_TICK` that starts with nothing pressed. -/
def Obligations.OnlyAnEmissionFillsTheCell : Prop :=
  (∀ (i : Instr) (s t : State), exec i s = .next t → s.kpCell = 0 → t.kpCell ≠ 0 →
    i = .tick 0 ∧ t.kpCell = latchedAfter 0 s.keyMask ∧ t.keyMask = 0) ∧
  (∀ (s t : State), step s = .next t → s.kpCell = 0 → t.kpCell ≠ 0 →
    s.starts .tick ∧ s.sw = 0 ∧ t.kpCell = latchedAfter 0 s.keyMask ∧ t.keyMask = 0)

/-- R22, R133: `kp_overrun` is sticky, and it is set only by an emission into a full cell: a `TICK`
with nothing pressed that finds a key held or latched, empties the mask, and found the cell full.  So
for the operations, and for all steps of the machine. -/
def Obligations.OverrunIsStickyAndHonest : Prop :=
  (∀ (s t : State), step s = .next t → s.kpOverrun = true → t.kpOverrun = true) ∧
  (∀ (i : Instr) (s t : State), exec i s = .next t → s.kpOverrun = false → t.kpOverrun = true →
    i = .tick 0 ∧ latchedAfter 0 s.keyMask ≠ 0 ∧ t.keyMask = 0 ∧ s.kpCell ≠ 0) ∧
  (∀ (s t : State), step s = .next t → s.kpOverrun = false → t.kpOverrun = true →
    s.starts .tick ∧ s.sw = 0 ∧ latchedAfter 0 s.keyMask ≠ 0 ∧ t.keyMask = 0 ∧ s.kpCell ≠ 0)

/-- R52: the key decoder's operations write only `key_mask`, `kp_cell` and `kp_overrun` (and
`KP_TAKE` returns its value); every other operation leaves those three alone. -/
def Obligations.TheTwoHalvesShareNoRegister : Prop :=
  ∀ (i : Instr) (s t : State), exec i s = .next t →
    (isKcd i = true →
      t = { s with
        keyMask := t.keyMask, kpCell := t.kpCell, kpOverrun := t.kpOverrun
        fg := t.fg, results := t.results }) ∧
    (isKcd i = false →
      t.keyMask = s.keyMask ∧ t.kpCell = s.kpCell ∧ t.kpOverrun = s.kpOverrun)

/-- R52: nothing the HID engine does depends on the key decoder's registers. -/
def Obligations.HidEngineCannotSeeTheKeyDecoder : Prop :=
  ∀ (i : Instr) (s : State) (m : BitVec 8) (c : BitVec 3) (o : Bool), isKcd i = false →
    exec i { s with keyMask := m, kpCell := c, kpOverrun := o } =
      mapNext (fun t => { t with keyMask := m, kpCell := c, kpOverrun := o }) (exec i s)

/-! ### The general interrupt -/

/-- R151: end-of-reset enables EP0 with the SETUP interrupt, ends a stall, disables the keyboard
endpoint and returns HidState to its defaults as far as `EORST_RESET_SCOPE` says.  `sof_div` is
zeroed under `all`; under `configuration_only` it is kept, as the pseudocode of R151 has it, or zeroed,
as R271 lists it, as the parameter says that takes both readings (DESIGN CHOICE, log entry 40). -/
def Obligations.EndOfResetRestoresTheSession : Prop :=
  ∀ (s : State),
    (s.cfg.eorstResetScope = .all → exec .giEorst s = .next
      { s with
        ep0Cfg := ⟨true, .control, 32, 1, true⟩
        ep0Stall := false
        kbCfg := { s.kbCfg with enabled := false }
        configuration := 0
        modifierKeys := 0
        keyboardKeys := Vector.replicate 6 0
        protocol := s.cfg.protocolDefault
        idleConfig := s.cfg.idleDefault
        idleCount := 0
        sofDiv := 0 }) ∧
    (s.cfg.eorstResetScope = .configurationOnly → exec .giEorst s = .next
      { s with
        ep0Cfg := ⟨true, .control, 32, 1, true⟩
        ep0Stall := false
        kbCfg := { s.kbCfg with enabled := false }
        configuration := 0
        sofDiv := if s.cfg.sofDivReset = .always then 0 else s.sofDiv })

/-- R152, R153: the four cases of `GI_SOF`: no counter moves while unconfigured or with
`idle_config = 0`; the divider counts frames by 4; a unit counts only while the keyboard endpoint is
ready; at the match the count starts over and the report goes out.  What the banks hold if the
packet finds none free is a free value (log entry 13). -/
def Obligations.StartOfFrameDrivesTheIdleTimer : Prop :=
  ∀ (s : State),
    ((s.configuration = 0 ∨ s.idleConfig = 0) → exec .giSof s = .next s) ∧
    (s.configuration ≠ 0 → s.idleConfig ≠ 0 → (s.sofDiv ≠ 3 ∨ s.kbRwal = false) →
      exec .giSof s = .next { s with sofDiv := s.sofDiv + 1 }) ∧
    (s.configuration ≠ 0 → s.idleConfig ≠ 0 → s.sofDiv = 3 → s.kbRwal = true →
      s.idleCount + 1 ≠ s.idleConfig →
      exec .giSof s = .next { s with sofDiv := 0, idleCount := s.idleCount + 1 }) ∧
    (s.configuration ≠ 0 → s.idleConfig ≠ 0 → s.sofDiv = 3 → s.kbRwal = true →
      s.idleCount + 1 = s.idleConfig →
      exec .giSof s = .next
        { s with
          sofDiv := 0
          idleCount := 0
          kbRwal := false
          kbTx := []
          kbBanks := s.kbFilled (s.kbTx ++ s.modifierKeys :: 0 :: s.keyboardKeys.toList)
          txLog := s.txLog ++
            [⟨s.cfg.kbEp, s.kbTx ++ s.modifierKeys :: 0 :: s.keyboardKeys.toList⟩] })

/-- R159 (from R152, R153): with the keyboard endpoint ready, `4 * idle_config` frames from a fresh
interval send exactly one report, at the last of them, and leave both counters at 0. -/
def Obligations.IdlePeriodIsFourFramesPerUnit : Prop :=
  ∀ (s : State), s.configuration ≠ 0 → s.idleConfig ≠ 0 → s.idleCount = 0 → s.sofDiv = 0 →
    s.kbRwal = true →
    (∃ c d, runAll (List.replicate (4 * s.idleConfig.toNat - 1) .giSof) s =
      .next { s with idleCount := c, sofDiv := d }) ∧
    runAll (List.replicate (4 * s.idleConfig.toNat) .giSof) s = .next (pushReport s)

/-! ### The endpoint interrupt -/

/-- R154, R157: an endpoint interrupt without a new SETUP packet stalls EP0 and reads nothing. -/
def Obligations.SpuriousInterruptStalls : Prop :=
  ∀ (s : State), exec (.epInt false) s = .next
    { s with pendEp := false, ep0Stall := true, ctlPhase := .idle }

/-- R154, R97: with a new SETUP packet, `EP_INT` reads the eight bytes into `setup_pkt` and
acknowledges, which clears the FIFO (R62; for a packet still in its bank, log entry 39) and the three
flags.  That its next state stops at the parse, the request left to a later step, is the model's
choice (DESIGN CHOICE, log entry 1: R154 dispatches inside `EP_INT`).  A FIFO that does not hold
exactly eight bytes is log entry 9: the reads go on with free values. -/
def Obligations.EpIntParsesTheSetupPacket : Prop :=
  ∀ (s : State) (b0 b1 b2 b3 b4 b5 b6 b7 : Byte),
    s.ep0Rx = [b0, b1, b2, b3, b4, b5, b6, b7] →
    exec (.epInt true) s = .next
      { s with
        pendEp := false
        setupPkt := ⟨b0, b1, b3.setWidth 16 <<< 8 ||| b2.setWidth 16,
          b5.setWidth 16 <<< 8 ||| b4.setWidth 16, b7.setWidth 16 <<< 8 ||| b6.setWidth 16⟩
        ep0Rxstp := false
        ep0Rxout := false
        ep0Txini := false
        ep0Rx := []
        ep0Tx := []
        ep0Banks := []
        ctlPhase := .idle }

/-- R105, R157: a word that matches no row stalls EP0; nothing else changes. -/
def Obligations.UnsupportedRequestStalls : Prop :=
  ∀ (w : Setup64) (s : State), exec (.stall w) s = .next
    { s with ep0Stall := true, ctlPhase := .idle }

/-- R171, R173, R177, R191, R192, R194: each of the five requests with a fixed reply starts a data
stage over its reply, cut to `wLength`: two zero bytes, the configuration, the report, the idle
rate, the protocol. -/
def Obligations.InRequestsStartTheirReply : Prop :=
  ∀ (v ix l : Half) (s : State), s.ctlPhase = .idle →
    exec (.getStatus v ix l) s = .next
      { s with ctlPhase := .dataIn [0, 0] 0 (min 2 l.toNat) l.toNat 0 } ∧
    exec (.getConfiguration v ix l) s = .next
      { s with ctlPhase := .dataIn [s.configuration] 0 (min 1 l.toNat) l.toNat 0 } ∧
    exec (.getReport v l) s = .next
      { s with
        ctlPhase := .dataIn (s.modifierKeys :: 0 :: s.keyboardKeys.toList) 0 (min 8 l.toNat)
          l.toNat 0 } ∧
    exec (.getIdle v l) s = .next
      { s with ctlPhase := .dataIn [s.idleConfig] 0 (min 1 l.toNat) l.toNat 0 } ∧
    exec (.getProtocol v l) s = .next
      { s with ctlPhase := .dataIn [s.protocol] 0 (min 1 l.toNat) l.toNat 0 }

/-- R175: `GET_DESCRIPTOR`, with either recipient and any `wIndex`, streams the whole entry under
the key `wValue`, cut to `wLength`, and stalls on a key that is not in the table. -/
def Obligations.GetDescriptorStreamsTheEntryOrStalls : Prop :=
  ∀ (v ix l : Half) (s : State), s.ctlPhase = .idle →
    (∀ data, s.cfg.descTable.entry v = some data →
      exec (.getDescriptorDevice v ix l) s = .next
        { s with ctlPhase := .dataIn data 0 (min data.length l.toNat) l.toNat 0 } ∧
      exec (.getDescriptorInterface v ix l) s = .next
        { s with ctlPhase := .dataIn data 0 (min data.length l.toNat) l.toNat 0 }) ∧
    (s.cfg.descTable.entry v = none →
      exec (.getDescriptorDevice v ix l) s = .next { s with ep0Stall := true } ∧
      exec (.getDescriptorInterface v ix l) s = .next { s with ep0Stall := true })

/-- R171: one poll of the hold of a data stage, for each of the seven requests that have one, while
no finite `CTRL_WAIT_CEILING` is used up: `RxOut` wins and ends the stage silently; `TxReady` sends the
next packet of at most 32 bytes, and the stage ends when all is sent and the packet was short or
exactly `wlen` bytes went out; with neither, the hold stands.  Counting the failing polls where there
is a ceiling is log entry 20. -/
def Obligations.DataStagePollSendsOnePacket : Prop :=
  ∀ (v ix l : Half) (s : State) (data : List Byte) (off len wlen polls : Nat),
    s.ctlPhase = .dataIn data off len wlen polls →
    (∀ ceiling, s.cfg.ctrlWaitCeiling = some ceiling → polls < ceiling) →
    ∀ i ∈ [Instr.getStatus v ix l, .getDescriptorDevice v ix l, .getDescriptorInterface v ix l,
        .getConfiguration v ix l, .getReport v l, .getIdle v l, .getProtocol v l],
      (s.ep0Rxout = true → exec i s = .next { s with ctlPhase := .idle }) ∧
      (s.ep0Rxout = false → s.ep0Txini = false →
        exec i s = .next
          { s with
            ctlPhase := .dataIn data off len wlen
              (if s.cfg.ctrlWaitCeiling = none then polls else polls + 1) }) ∧
      (s.ep0Rxout = false → s.ep0Txini = true →
        exec i s = .next
          { s with
            ep0Txini := false
            ep0Tx := []
            ep0Banks := s.ep0Filled (s.ep0Tx ++ (data.drop off).take (min (len - off) 32))
            txLog := s.txLog ++ [⟨0, s.ep0Tx ++ (data.drop off).take (min (len - off) 32)⟩]
            ctlPhase :=
              if off + min (len - off) 32 = len ∧ (min (len - off) 32 < 32 ∨ len = wlen) then .idle
              else .dataIn data (off + min (len - off) 32) len wlen 0 })

/-- R171, D20: with a finite `CTRL_WAIT_CEILING` the hold of a data stage, for each of the seven
requests that have one, gives up after that many polls and is abandoned as on abort.  That exactly
`ceiling` failing polls pass, each counted, and that giving up is a further step which does not read
the flags, is the model's choice (DESIGN CHOICE, log entry 20). -/
def Obligations.FiniteCeilingAbandonsTheStage : Prop :=
  ∀ (v ix l : Half) (s : State) (data : List Byte) (off len wlen polls ceiling : Nat),
    s.ctlPhase = .dataIn data off len wlen polls → s.cfg.ctrlWaitCeiling = some ceiling →
    ∀ i ∈ [Instr.getStatus v ix l, .getDescriptorDevice v ix l, .getDescriptorInterface v ix l,
        .getConfiguration v ix l, .getReport v l, .getIdle v l, .getProtocol v l],
      (ceiling ≤ polls → exec i s = .next { s with ctlPhase := .idle }) ∧
      (polls < ceiling → s.ep0Rxout = false → s.ep0Txini = false →
        exec i s = .next { s with ctlPhase := .dataIn data off len wlen (polls + 1) })

/-- R171, R175, R176: a whole `GET_DESCRIPTOR`, with either recipient, the host collecting each packet
and lifting each hold in turn, commits exactly the packets of the data stage, in order, and ends with
the handler left and nothing else changed but EP0's ready flag and its bank, where the last packet
stands.  Premise: EP0's one bank holds at most one packet (R60; kept by every step,
`StepKeepsTheInvariant`).  Moves are counted as the model takes them (log entry 1). -/
def Obligations.DescriptorArrivesInChunks : Prop :=
  ∀ (s : State) (bm : Byte) (v ix l : Half) (data : List Byte) (rest : List Choice),
    (bm = 0x80 ∨ bm = 0x81) →
    s.setupPkt = ⟨bm, 0x06, v, ix, l⟩ → s.cfg.descTable.entry v = some data →
    s.cfg.ctrlWaitCeiling = none → s.inHandler = true → s.ctlPhase = .idle →
    s.ep0Rxout = false → s.ep0Tx = [] → s.ep0Banks.length ≤ 1 →
    s.sched = .advance :: (hostLifts (dataStagePackets data l.toNat).length ++ rest) →
    stepN (1 + 3 * (dataStagePackets data l.toNat).length) s = .next
      { s with
        sched := rest
        inHandler := false
        ep0Txini := false
        ep0Banks := (dataStagePackets data l.toNat).getLast?.toList
        txLog := s.txLog ++ (dataStagePackets data l.toNat).map fun bs => ⟨0, bs⟩ }

/-- R174: `SET_ADDRESS` sends its zero-length packet and waits; when EP0 is ready again, or a finite
`CTRL_WAIT_CEILING` is used up (D20), `wValue[6:0]` is written to `dev_addr` and `addr_en` set; until
then the hold stands.  The two clauses on a finite ceiling, a counted poll and then the write in a
further step, are the model's choice (DESIGN CHOICE, log entry 20); what the bank holds if it was full
is a free value (log entry 13). -/
def Obligations.SetAddressWaitsForItsPacket : Prop :=
  ∀ (v ix l : Half) (s : State),
    (s.ctlPhase = .idle → exec (.setAddress v ix l) s = .next
      { s with
        ctlPhase := .addrWait (v.extractLsb' 0 7) 0
        ep0Txini := false
        ep0Tx := []
        ep0Banks := s.ep0Filled s.ep0Tx
        txLog := s.txLog ++ [⟨0, s.ep0Tx⟩] }) ∧
    (∀ addr polls, s.ctlPhase = .addrWait addr polls → s.ep0Txini = true →
      exec (.setAddress v ix l) s = .next
        { s with devAddr := addr, addrEn := true, ctlPhase := .idle }) ∧
    (∀ addr polls, s.ctlPhase = .addrWait addr polls → s.ep0Txini = false →
      s.cfg.ctrlWaitCeiling = none → exec (.setAddress v ix l) s = .next s) ∧
    (∀ addr polls ceiling, s.ctlPhase = .addrWait addr polls → s.ep0Txini = false →
      s.cfg.ctrlWaitCeiling = some ceiling → polls < ceiling →
      exec (.setAddress v ix l) s = .next { s with ctlPhase := .addrWait addr (polls + 1) }) ∧
    (∀ addr polls ceiling, s.ctlPhase = .addrWait addr polls → s.ep0Txini = false →
      s.cfg.ctrlWaitCeiling = some ceiling → ceiling ≤ polls →
      exec (.setAddress v ix l) s = .next
        { s with devAddr := addr, addrEn := true, ctlPhase := .idle })

/-- R178: `SET_CONFIGURATION` with the whole `wValue` equal to 1 configures the device, sends its
zero-length packet and enables and resets the keyboard endpoint; any other value stalls and changes
nothing else.  What EP0's bank holds if it was full is a free value (log entry 13). -/
def Obligations.SetConfigurationValidatesTheValue : Prop :=
  ∀ (v ix l : Half) (s : State), s.ctlPhase = .idle →
    (v = 1 → exec (.setConfiguration v ix l) s = .next
      { s with
        configuration := 1
        ep0Txini := false
        ep0Tx := []
        ep0Banks := s.ep0Filled s.ep0Tx
        txLog := s.txLog ++ [⟨0, s.ep0Tx⟩]
        kbCfg := ⟨true, .interrupt, .dirIn, s.cfg.kbEpSize, s.cfg.kbEpBanks⟩
        kbBanks := []
        kbTx := []
        kbRwal := true }) ∧
    (v ≠ 1 → exec (.setConfiguration v ix l) s = .next { s with ep0Stall := true })

/-- R193, R195: `SET_IDLE` stores `wValue[15:8]` and starts a new interval; `SET_PROTOCOL` stores
`wValue[7:0]`; each sends one zero-length packet.  What EP0's bank holds if it was full is a free value
(log entry 13). -/
def Obligations.SetIdleAndSetProtocolStoreTheirByte : Prop :=
  ∀ (v l : Half) (s : State),
    exec (.setIdle v l) s = .next
      { s with
        idleConfig := v.extractLsb' 8 8
        idleCount := 0
        ep0Txini := false
        ep0Tx := []
        ep0Banks := s.ep0Filled s.ep0Tx
        txLog := s.txLog ++ [⟨0, s.ep0Tx⟩] } ∧
    exec (.setProtocol v l) s = .next
      { s with
        protocol := v.extractLsb' 0 8
        ep0Txini := false
        ep0Tx := []
        ep0Banks := s.ep0Filled s.ep0Tx
        txLog := s.txLog ++ [⟨0, s.ep0Tx⟩] }

/-! ### The foreground commands -/

/-- R206: every numbered step of `USB_SETUP`.  One read of `pll_locked` a step, and the return of false
in the step of the last failing read, are the model's reading (DEDUCED, log entry 21); the premise
`attached = false` at the call leaves out the repeated call of U7 (log entry 26), of which
`UnspecifiedCallsAreRefused` speaks. -/
def Obligations.UsbSetupTakesItsSteps : Prop :=
  ∀ (s : State), s.inHandler = false →
    (s.fg = .idle → s.attached = false → exec .usbSetup s = .next
      { s with padRegOn := true, fg := .usbSetup .step2 }) ∧
    (s.fg = .usbSetup .step2 → exec .usbSetup s = .next
      { s with pllOn := true, fg := .usbSetup (.step3 0) }) ∧
    (∀ polls, s.fg = .usbSetup (.step3 polls) → polls < s.cfg.pllLockCeiling →
      s.pllLocked = true → exec .usbSetup s = .next { s with fg := .usbSetup .step4 }) ∧
    (∀ polls, s.fg = .usbSetup (.step3 polls) → polls + 1 < s.cfg.pllLockCeiling →
      s.pllLocked = false → exec .usbSetup s = .next { s with fg := .usbSetup (.step3 (polls + 1)) }) ∧
    (∀ polls, s.fg = .usbSetup (.step3 polls) → polls + 1 = s.cfg.pllLockCeiling →
      s.pllLocked = false → exec .usbSetup s = .next
        { s with fg := .idle, results := s.results ++ [.usbSetup false] }) ∧
    (s.fg = .usbSetup .step4 → exec .usbSetup s = .next
      { s with usbOn := true, fg := .usbSetup .step5 }) ∧
    (s.fg = .usbSetup .step5 → exec .usbSetup s = .next
      { s with giEnEorst := true, giEnSof := true, fg := .usbSetup .step6 }) ∧
    (s.fg = .usbSetup .step6 → exec .usbSetup s = .next
      { s with attached := true, fg := .idle, results := s.results ++ [.usbSetup true] })

/-- R206, R207: an undisturbed `USB_SETUP` whose PLL never locks makes exactly `PLL_LOCK_CEILING`
polls, returns false, and leaves only the regulator and the PLL on.  The count of moves (false returned
in the step of the last failing read) is the model's reading (DEDUCED, log entry 21). -/
def Obligations.BringUpFailsAfterTheCeiling : Prop :=
  ∀ (s : State) (rest : List Choice), s.inHandler = false → s.fg = .idle → s.attached = false →
    s.pllLocked = false → 1 ≤ s.cfg.pllLockCeiling →
    s.sched = .issue .usbSetup :: (List.replicate (1 + s.cfg.pllLockCeiling) .fg ++ rest) →
    (∃ t, stepN (1 + s.cfg.pllLockCeiling) s = .next t ∧
      t.fg = .usbSetup (.step3 (s.cfg.pllLockCeiling - 1))) ∧
    stepN (2 + s.cfg.pllLockCeiling) s = .next
      { s with
        sched := rest
        padRegOn := true
        pllOn := true
        results := s.results ++ [.usbSetup false] }

/-- R206: an undisturbed `USB_SETUP` whose PLL is locked returns true with all six bring-up flags on,
the regulator, PLL and controller first and the pull-up last. -/
def Obligations.BringUpSucceedsWhenLocked : Prop :=
  ∀ (s : State) (rest : List Choice), s.inHandler = false → s.fg = .idle → s.attached = false →
    s.pllLocked = true → 1 ≤ s.cfg.pllLockCeiling →
    s.sched = .issue .usbSetup :: .fg :: .fg :: .fg :: .fg :: .fg :: rest →
    stepN 6 s = .next
      { s with
        sched := rest
        padRegOn := true
        pllOn := true
        usbOn := true
        giEnEorst := true
        giEnSof := true
        attached := true
        results := s.results ++ [.usbSetup true] }

/-- R208: the writes of `SEND_KEYPRESS` outside `TRANSMIT`: steps 1, 2, 4 and 5, each one byte. -/
def Obligations.SendKeypressWritesByteByByte : Prop :=
  ∀ (key mod : Byte) (s : State), s.inHandler = false →
    (s.fg = .idle → exec (.sendKeypress key mod) s = .next
      { s with modifierKeys := mod, fg := .send key mod .step2 }) ∧
    (s.fg = .send key mod .step2 → exec (.sendKeypress key mod) s = .next
      { s with keyboardKeys := s.keyboardKeys.set 0 key, fg := .send key mod (.t0 .first) }) ∧
    (s.fg = .send key mod .step4 → exec (.sendKeypress key mod) s = .next
      { s with modifierKeys := 0, fg := .send key mod .step5 }) ∧
    (s.fg = .send key mod .step5 → exec (.sendKeypress key mod) s = .next
      { s with keyboardKeys := s.keyboardKeys.set 0 0, fg := .send key mod (.t0 .second) })

/-- R210: `TRANSMIT` while it does not return: the window opens with the deadline 50 frames on
(`t1`), an endpoint that is not ready closes it again (`t2`, `t3`), and a configured device whose
frame is not the deadline polls again (`t4`, `t5`, `t6`). -/
def Obligations.TransmitPollsInsideItsWindow : Prop :=
  ∀ (key mod : Byte) (n : TxOrd) (s : State), s.inHandler = false →
    (s.fg = .send key mod (.t0 n) → s.configuration ≠ 0 →
      exec (.sendKeypress key mod) s = .next { s with fg := .send key mod (.t1 n) }) ∧
    (s.fg = .send key mod (.t1 n) → exec (.sendKeypress key mod) s = .next
      { s with
        intEnable := false
        fg := .send key mod
          (.t2 n s.intEnable ((s.frameNum % 2 ^ s.cfg.frameW + 50) % 2 ^ s.cfg.frameW)) }) ∧
    (∀ saved d, s.fg = .send key mod (.t2 n saved d) → s.kbRwal = false →
      exec (.sendKeypress key mod) s = .next { s with fg := .send key mod (.t3 n saved d) }) ∧
    (∀ saved d, s.fg = .send key mod (.t3 n saved d) → exec (.sendKeypress key mod) s = .next
      { s with intEnable := saved, sendPhase := .txPoll n d, fg := .send key mod (.t4 n d) }) ∧
    (∀ d, s.fg = .send key mod (.t4 n d) → s.configuration ≠ 0 →
      exec (.sendKeypress key mod) s = .next { s with fg := .send key mod (.t5 n d) }) ∧
    (∀ d, s.fg = .send key mod (.t5 n d) → s.frameNum % 2 ^ s.cfg.frameW ≠ d →
      exec (.sendKeypress key mod) s = .next { s with fg := .send key mod (.t6 n d) }) ∧
    (∀ d, s.fg = .send key mod (.t6 n d) → exec (.sendKeypress key mod) s = .next
      { s with intEnable := false, fg := .send key mod (.t2 n s.intEnable d) })

/-- R210, R153: inside the window, a ready endpoint takes the current report; the idle count starts
over, interrupts return to what they were, and the first transmit leads on to step 4 while the
second ends the command with true (R208).  What the banks hold if none was free is a free value (log
entry 13). -/
def Obligations.TransmitPushesWhenReady : Prop :=
  ∀ (key mod : Byte) (saved : Bool) (d : Nat) (s : State), s.inHandler = false → s.kbRwal = true →
    (s.fg = .send key mod (.t2 .first saved d) → exec (.sendKeypress key mod) s = .next
      { s with
        kbRwal := false
        kbTx := []
        kbBanks := s.kbFilled (s.kbTx ++ s.modifierKeys :: 0 :: s.keyboardKeys.toList)
        txLog := s.txLog ++
          [⟨s.cfg.kbEp, s.kbTx ++ s.modifierKeys :: 0 :: s.keyboardKeys.toList⟩]
        idleCount := 0
        intEnable := saved
        sendPhase := .none
        fg := .send key mod .step4 }) ∧
    (s.fg = .send key mod (.t2 .second saved d) → exec (.sendKeypress key mod) s = .next
      { s with
        kbRwal := false
        kbTx := []
        kbBanks := s.kbFilled (s.kbTx ++ s.modifierKeys :: 0 :: s.keyboardKeys.toList)
        txLog := s.txLog ++
          [⟨s.cfg.kbEp, s.kbTx ++ s.modifierKeys :: 0 :: s.keyboardKeys.toList⟩]
        idleCount := 0
        intEnable := saved
        sendPhase := .none
        fg := .idle
        results := s.results ++ [.sendKeypress true] })

/-- R208, R209, R210: `TRANSMIT` fails on an unconfigured device (`t0`, `t4`) and at the deadline
(`t5`); the command then returns false with nothing sent and, under the spec's choice, the report
fields left as written. -/
def Obligations.TransmitFailureEndsTheCommand : Prop :=
  ∀ (key mod : Byte) (n : TxOrd) (s : State), s.inHandler = false →
    s.cfg.sendFailPolicy = .keep →
    ((s.fg = .send key mod (.t0 n) ∧ s.configuration = 0) ∨
      (∃ d, s.fg = .send key mod (.t4 n d) ∧ s.configuration = 0) ∨
      (∃ d, s.fg = .send key mod (.t5 n d) ∧ s.frameNum % 2 ^ s.cfg.frameW = d)) →
    exec (.sendKeypress key mod) s = .next
      { s with
        sendPhase := .none, fg := .idle, results := s.results ++ [.sendKeypress false] }

/-- R208, R213: an undisturbed `SEND_KEYPRESS(key, mod)` on a configured device, the host collecting a
packet and the endpoint ready before each transmit, sends `(mod, 0, key, 0, 0, 0, 0, 0)` and then the
all-zero report, returns true, and leaves the report fields and the idle count at 0 and interrupts as
they were.  Premises: the endpoint has a bank (R8) and no more packets stand in its banks than it has
(R60; kept by every step, `StepKeepsTheInvariant`). -/
def Obligations.SendKeypressSendsKeyDownThenKeyUp : Prop :=
  ∀ (key mod : Byte) (s : State) (rest : List Choice),
    s.inHandler = false → s.fg = .idle → s.configuration ≠ 0 → s.sendPhase = .none →
    s.keyboardKeys.toList.tail = [0, 0, 0, 0, 0] → s.kbTx = [] →
    1 ≤ s.cfg.kbEpBanks → s.kbBanks.length ≤ s.cfg.kbEpBanks →
    s.sched = .issue (.sendKeypress key mod) :: .fg :: .fg :: .fg :: .env (.collect .kb) ::
      .env (.kbRwal true) :: .fg :: .fg :: .fg :: .fg :: .fg :: .env (.collect .kb) ::
      .env (.kbRwal true) :: .fg :: rest →
    stepN 14 s = .next
      { s with
        sched := rest
        modifierKeys := 0
        keyboardKeys := s.keyboardKeys.set 0 0
        idleCount := 0
        kbRwal := false
        kbBanks := (s.kbBanks.tail ++ [[mod, 0, key, 0, 0, 0, 0, 0]]).tail ++
          [[0, 0, 0, 0, 0, 0, 0, 0]]
        txLog := s.txLog ++
          [⟨s.cfg.kbEp, [mod, 0, key, 0, 0, 0, 0, 0]⟩, ⟨s.cfg.kbEp, [0, 0, 0, 0, 0, 0, 0, 0]⟩]
        results := s.results ++ [.sendKeypress true] }

/-- R210, R211, R288: either transmit whose endpoint is never ready, polled once in every frame, fails at
the 50th frame and not before, with nothing sent.  The general interrupt's start-of-frame cause is
left pending where enabled. -/
def Obligations.TransmitGivesUpAfterFiftyFrames : Prop :=
  ∀ (key mod : Byte) (n : TxOrd) (s : State) (rest : List Choice),
    s.inHandler = false → s.fg = .send key mod (.t1 n) → s.configuration ≠ 0 →
    s.kbRwal = false → s.cfg.sendFailPolicy = .keep → 6 ≤ s.cfg.frameW →
    s.sched = [.fg, .fg, .fg] ++
      ((List.replicate 49 [Choice.env .sof, .fg, .fg, .fg, .fg, .fg]).flatten ++
        (.env .sof :: .fg :: .fg :: rest)) →
    (∃ t, stepN (3 + 49 * 6) s = .next t ∧
      t.fg = .send key mod
        (.t4 n ((s.frameNum % 2 ^ s.cfg.frameW + 50) % 2 ^ s.cfg.frameW))) ∧
    stepN (3 + 49 * 6 + 3) s = .next
      { s with
        sched := rest
        fg := .idle
        sendPhase := .none
        frameNum := (s.frameNum + 50) % 2 ^ s.cfg.frameW
        causeSof := s.causeSof || s.giEnSof
        pendGen := s.pendGen || s.giEnSof
        results := s.results ++ [.sendKeypress false] }

/-- R212: `HAS_CONFIGURED` returns whether `configuration` is non-zero and changes nothing, in the
foreground with no command in flight (R205), and in interrupt context, where R252 calls it harmless.
That it runs in interrupt context, where no handler and no move of the schedule calls it, and that the
foreground with a command in flight is left out, is the model's reading of R205 and R252 (DEDUCED, log
entry 31). -/
def Obligations.HasConfiguredReadsTheConfiguration : Prop :=
  ∀ (s : State), (s.inHandler = true ∨ s.fg = .idle) →
    exec .hasConfigured s = .next
      { s with results := s.results ++ [.hasConfigured (s.configuration != 0)] }

/-- The calls the spec leaves undefined are refused by name.  U6, U7, U8 of
93_implementation_defined.md (treatment `refuse`): `USB_SETUP` and `SEND_KEYPRESS` from interrupt
context, `USB_SETUP` once it has succeeded, a call while another command is in flight.  That
`KP_TAKE` from interrupt context, of which R252 only says no, is refused like them is the model's
choice (DESIGN CHOICE, log entry 26); that `HAS_CONFIGURED` too is refused while another command is in
flight is the model's reading of R205 (DEDUCED, log entry 31). -/
def Obligations.UnspecifiedCallsAreRefused : Prop :=
  ∀ (s : State) (key mod : Byte) (rest : List Choice),
    (s.inHandler = true →
      exec .usbSetup s = .refused .commandFromInterrupt ∧
      exec .kpTake s = .refused .commandFromInterrupt ∧
      exec (.sendKeypress key mod) s = .refused .commandFromInterrupt) ∧
    (s.inHandler = false → s.fg = .idle → s.attached = true →
      exec .usbSetup s = .refused .setupRepeated) ∧
    (∀ c, s.inHandler = false → s.fg ≠ .idle → s.sched = .issue c :: rest →
      step s = .refused .commandInFlight)

/-! ### Rules of the whole machine -/

/-- R49 and the rules `MachineInv` names: every step keeps the invariant, whatever the schedule.  Its
clause `send`, interrupts off inside the window, rests on the model's choice that the runtime's
`int_enable <- 1` does not fall inside a command (DESIGN CHOICE, log entry 17); its clauses on the
sizes and the order of the banks rest on log entries 13 and 39. -/
def Obligations.StepKeepsTheInvariant : Prop :=
  ∀ (s t : State), MachineInv s → step s = .next t → MachineInv t

/-- R49, R50: the invariant holds right after reset, for every choice of the parameters.  R50 gives the
UDC's storage and the ports no value: that `fifos`, `ep0Sizes`, `kbSizes` and `order` hold rests on empty
storage at reset (DESIGN CHOICE, log entry 6), and `frame` on the port at 0 (DESIGN CHOICE, log
entry 5).  That no command is in flight is the model's own field at reset (DESIGN CHOICE, log entry
10), with which `send` and `bringUp` speak. -/
def Obligations.ResetMeetsTheInvariant : Prop :=
  MachineInv State.reset ∧
    ∀ (p : Params) (cs : List Choice),
      MachineInv { State.resetWith p with sched := cs } ∧ (State.resetWith p).fg = .idle

/-- R50: the reset values the spec gives, for every choice of the parameters. -/
def Obligations.ResetValuesAreTheSpecs : Prop :=
  ∀ (p : Params),
    let s := State.resetWith p
    s.keyMask = 0 ∧ s.kpCell = 0 ∧ s.kpOverrun = false ∧ s.configuration = 0 ∧
    s.modifierKeys = 0 ∧ s.keyboardKeys.toList = [0, 0, 0, 0, 0, 0] ∧
    s.protocol = p.protocolDefault ∧ s.idleConfig = p.idleDefault ∧ s.idleCount = 0 ∧
    s.sofDiv = 0 ∧ s.ctlPhase = .idle ∧ s.sendPhase = .none ∧
    s.ep0Cfg.enabled = false ∧ s.ep0Cfg.rxstpIntEn = false ∧ s.kbCfg.enabled = false ∧
    s.ep0Stall = false ∧ s.devAddr = 0 ∧ s.addrEn = false ∧
    s.padRegOn = false ∧ s.pllOn = false ∧ s.usbOn = false ∧
    s.giEnEorst = false ∧ s.giEnSof = false ∧ s.attached = false ∧
    s.intEnable = false ∧ s.inHandler = false ∧
    s.pendTick = false ∧ s.pendGen = false ∧ s.pendEp = false ∧
    s.causeEorst = false ∧ s.causeSof = false ∧ s.txLog = [] ∧
    s.cfg.descTable = p.descTable

/-- R241: no operation, and no step, ends in a fault: no failure is fatal to the block. -/
def Obligations.NothingFaults : Prop :=
  (∀ (i : Instr) (s : State) (r : Fault), exec i s ≠ .fault r) ∧
  (∀ (s : State) (r : Fault), step s ≠ .fault r)

/-- R47: `tx_log` is append-only. -/
def Obligations.TransmitLogOnlyGrows : Prop :=
  ∀ (s t : State), step s = .next t → ∃ new, t.txLog = s.txLog ++ new

/-- R227, R228: the default descriptor table meets every consistency constraint of R227, item 7's
layout of the report (R99) among them, and carries the parameters of R8, for any vendor and product,
any keyboard endpoint number, any interval, and any texts that fit a string descriptor.  How the bits of
item 7 are read, the eight modifiers by their usages and the keycodes as usage numbers, is log entry 37
(DESIGN CHOICE); items 3 and the keys of R226 are log entries 42 and 43 (DESIGN CHOICE). -/
def Obligations.DefaultTableMeetsItsConstraints : Prop :=
  ∀ (vendorId productId : Half) (kbEp : BitVec 4) (interval : Byte) (maker product : List Half),
    maker.length ≤ 126 → product.length ≤ 126 →
    let p : Params :=
      { Config.params with
        vendorId := vendorId, productId := productId, kbEp := kbEp, kbEpInterval := interval
        strManufacturer := maker, strProduct := product
        descTable :=
          Config.defaultDescTable vendorId productId kbEp interval maker product }
    Params.descTableWf p = true ∧ Params.identityWf p = true

/-- R51, R60, R77: no step writes the parameters or a byte of the descriptor ROM. -/
def Obligations.DescriptorRomIsConstant : Prop :=
  ∀ (s t : State), step s = .next t →
    t.cfg = s.cfg ∧
    ∀ (key : Half) (off n : Nat), memRead t.cfg.descTable key off n =
      memRead s.cfg.descTable key off n

/-- R24: `configuration` changes only by `SET_CONFIGURATION`, to 1, and by `GI_EORST`, to 0: of the
operations, and of all steps of the machine, where the one is served by `A_EP` and the other runs when
`A_GEN` starts with its cause latched. -/
def Obligations.OnlyTwoOperationsWriteConfiguration : Prop :=
  (∀ (i : Instr) (s t : State), exec i s = .next t → t.configuration ≠ s.configuration →
    (i = .giEorst ∧ t.configuration = 0) ∨
    (∃ v ix l, i = .setConfiguration v ix l ∧ v = 1 ∧ t.configuration = 1)) ∧
  (∀ (s t : State), step s = .next t → t.configuration ≠ s.configuration →
    (s.starts .gen ∧ s.causeEorst = true ∧ t.configuration = 0) ∨
    (s.nextChoice = .advance ∧ s.inHandler = true ∧ t.configuration = 1 ∧
      ∃ ix l, decodeSetup s.cfg.keyboardInterface s.setupPkt.word = .setConfiguration 1 ix l))

/-- R75, R274: of the operations only `SEND_KEYPRESS` writes `int_enable`: it clears it where a
window opens and restores the saved value where the window closes. -/
def Obligations.OnlyTheWindowMovesIntEnable : Prop :=
  ∀ (i : Instr) (s t : State), exec i s = .next t → t.intEnable ≠ s.intEnable →
    ∃ key mod, i = .sendKeypress key mod ∧
      ((t.intEnable = false ∧ ∃ n d, t.fg = .send key mod (.t2 n s.intEnable d)) ∨
        ∃ n saved d, (s.fg = .send key mod (.t2 n saved d) ∨ s.fg = .send key mod (.t3 n saved d)) ∧
          t.intEnable = saved)

/-- R36, R174: of the operations only `SET_ADDRESS`, at its hold, writes the device address, and it
writes the address it was given. -/
def Obligations.OnlySetAddressWritesTheAddress : Prop :=
  ∀ (i : Instr) (s t : State), exec i s = .next t →
    (t.devAddr ≠ s.devAddr ∨ t.addrEn ≠ s.addrEn) →
    ∃ v ix l addr polls, i = .setAddress v ix l ∧ s.ctlPhase = .addrWait addr polls ∧
      t.devAddr = addr ∧ t.addrEn = true

/-- R27: the value of `protocol` has no effect on any operation but `GET_PROTOCOL`, which returns it,
and the two that overwrite it. -/
def Obligations.ProtocolHasNoOtherEffect : Prop :=
  ∀ (i : Instr) (s : State) (p : Byte),
    (∀ v l, i ≠ .getProtocol v l) → (∀ v l, i ≠ .setProtocol v l) → i ≠ .giEorst →
    exec i { s with protocol := p } = mapNext (fun t => { t with protocol := p }) (exec i s)

/-! ### Banks, and what the environment owns -/

/-- R12, R48 (c): `EpSend` logs the bytes written as one packet, puts it behind those that stand in
the endpoint's banks while one is free (EP0 has one, R60), and clears the ready flag; the host collects
the oldest packet of an endpoint and its ready flag is 1 (R108), and where there is none nothing
happens (log entry 7).  R79: whether or not a bank is free, what then stands in the banks is what stood
there with the new packet behind it, in that order; which of them are lost where none is free is a free
value (DESIGN CHOICE, log entry 13). -/
def Obligations.PacketsFillAndLeaveTheBanks : Prop :=
  ∀ (s : State),
    (s.ep0Banks = [] → epSend .ep0 s =
      { s with
        txLog := s.txLog ++ [⟨0, s.ep0Tx⟩], ep0Tx := [], ep0Banks := [s.ep0Tx], ep0Txini := false }) ∧
    (s.kbBanks.length < s.cfg.kbEpBanks → epSend .kb s =
      { s with
        txLog := s.txLog ++ [⟨s.cfg.kbEp, s.kbTx⟩], kbTx := [], kbBanks := s.kbBanks ++ [s.kbTx]
        kbRwal := false }) ∧
    (epSend .ep0 s).ep0Banks.Sublist (s.ep0Banks ++ [s.ep0Tx]) ∧
    (epSend .ep0 s).ep0Banks.length ≤ 1 ∧
    (epSend .kb s).kbBanks.Sublist (s.kbBanks ++ [s.kbTx]) ∧
    (epSend .kb s).kbBanks.length ≤ s.cfg.kbEpBanks ∧
    (∀ p rest, s.ep0Banks = p :: rest →
      applyEnv (.collect .ep0) s = { s with ep0Banks := rest, ep0Txini := true }) ∧
    (s.ep0Banks = [] → applyEnv (.collect .ep0) s = s) ∧
    (∀ p rest, s.kbBanks = p :: rest →
      applyEnv (.collect .kb) s = { s with kbBanks := rest, kbRwal := true }) ∧
    (s.kbBanks = [] → applyEnv (.collect .kb) s = s)

/-- R20: `ENV` owns no register of the block.  A step of `ENV` changes the ports, the UDC's FIFO and
banks, the draw counter and the latches of R38 that its events set, and of the rest only: the address,
which a bus reset clears (R36); the stall, which a SETUP packet ends (R35); and `int_enable`, which the
runtime sets (R274; that it does so outside commands and handlers is log entry 17).  That the stall
outlasts a change of the port `ep0_rxstp` alone to 1, which is no packet, is the model's choice (DESIGN
CHOICE, log entry 45). -/
def Obligations.EnvironmentOwnsNoRegister : Prop :=
  ∀ (s t : State) (e : EnvEvent) (rest : List Choice),
    s.sched = .env e :: rest → step s = .next t →
    t = { s with
      sched := rest
      sw := t.sw, pllLocked := t.pllLocked, ep0Rxstp := t.ep0Rxstp, ep0Rxout := t.ep0Rxout
      ep0Txini := t.ep0Txini, kbRwal := t.kbRwal, frameNum := t.frameNum
      ep0Rx := t.ep0Rx, ep0Banks := t.ep0Banks, kbBanks := t.kbBanks, draws := t.draws
      pendTick := t.pendTick, pendGen := t.pendGen, pendEp := t.pendEp
      causeEorst := t.causeEorst, causeSof := t.causeSof
      devAddr := t.devAddr, addrEn := t.addrEn, ep0Stall := t.ep0Stall, intEnable := t.intEnable } ∧
    (s.pendTick = true → t.pendTick = true) ∧ (s.pendGen = true → t.pendGen = true) ∧
    (s.pendEp = true → t.pendEp = true) ∧ (s.causeEorst = true → t.causeEorst = true) ∧
    (s.causeSof = true → t.causeSof = true) ∧
    (t.devAddr ≠ s.devAddr ∨ t.addrEn ≠ s.addrEn →
      e = .eorst ∧ t.devAddr = 0 ∧ t.addrEn = false) ∧
    (t.ep0Stall ≠ s.ep0Stall → (∃ w, e = .setup w) ∧ t.ep0Stall = false) ∧
    (t.intEnable ≠ s.intEnable →
      e = .enableInt ∧ t.intEnable = true ∧ s.fg = .idle ∧ s.inHandler = false)
end

