-- ==== Sys2Proof/Laws/Setup.lean ====
section
/-! SUPPORT. The SETUP word and its fields determine each other (R96). -/

namespace Sys2Proof

section

variable (a b : Byte) (v i l : Half)

/-- The five fields of a word built from fields. -/
theorem Setup64.fields_ofFields :
    Setup64.bmRequestType (Setup64.ofFields a b v i l) = a ∧
    Setup64.bRequest (Setup64.ofFields a b v i l) = b ∧
    Setup64.wValue (Setup64.ofFields a b v i l) = v ∧
    Setup64.wIndex (Setup64.ofFields a b v i l) = i ∧
    Setup64.wLength (Setup64.ofFields a b v i l) = l := by
  simp only [Setup64.ofFields, Setup64.bmRequestType, Setup64.bRequest, Setup64.wValue,
    Setup64.wIndex, Setup64.wLength]
  refine ⟨?_, ?_, ?_, ?_, ?_⟩ <;> ext k hk <;>
    simp (disch := omega) [BitVec.getLsbD_eq_getElem, hk, BitVec.getLsbD_of_ge]
  all_goals omega

@[simp] theorem Setup64.bmRequestType_ofFields :
    Setup64.bmRequestType (Setup64.ofFields a b v i l) = a := (fields_ofFields a b v i l).1
@[simp] theorem Setup64.bRequest_ofFields :
    Setup64.bRequest (Setup64.ofFields a b v i l) = b := (fields_ofFields a b v i l).2.1
@[simp] theorem Setup64.wValue_ofFields :
    Setup64.wValue (Setup64.ofFields a b v i l) = v := (fields_ofFields a b v i l).2.2.1
@[simp] theorem Setup64.wIndex_ofFields :
    Setup64.wIndex (Setup64.ofFields a b v i l) = i := (fields_ofFields a b v i l).2.2.2.1
@[simp] theorem Setup64.wLength_ofFields :
    Setup64.wLength (Setup64.ofFields a b v i l) = l := (fields_ofFields a b v i l).2.2.2.2

end

/-- A word is the word of its fields. -/
@[simp] theorem Setup64.ofFields_eta (w : Setup64) :
    Setup64.ofFields (Setup64.bmRequestType w) (Setup64.bRequest w) (Setup64.wValue w)
      (Setup64.wIndex w) (Setup64.wLength w) = w := by
  simp only [Setup64.ofFields, Setup64.bmRequestType, Setup64.bRequest, Setup64.wValue,
    Setup64.wIndex, Setup64.wLength]
  ext k hk
  simp only [BitVec.getElem_or, BitVec.getElem_shiftLeft, BitVec.getLsbD_extractLsb',
    BitVec.getElem_setWidth]
  by_cases h1 : k < 8
  · simp [h1, show k < 48 by omega, show k < 32 by omega, show k < 16 by omega,
      BitVec.getLsbD_eq_getElem hk]
  by_cases h2 : k < 16
  · simp (disch := omega) [h1, h2, show k < 48 by omega, show k < 32 by omega,
      show k - 8 < 8 by omega, show 8 + (k - 8) = k by omega]
  by_cases h3 : k < 32
  · simp (disch := omega) [h1, h2, h3, show k < 48 by omega, show k - 16 < 16 by omega,
      show ¬ k - 8 < 8 by omega, show 16 + (k - 16) = k by omega]
  by_cases h4 : k < 48
  · simp (disch := omega) [h1, h2, h3, h4, show ¬ k - 16 < 16 by omega,
      show k - 32 < 16 by omega, show ¬ k - 8 < 8 by omega, show 32 + (k - 32) = k by omega]
  · simp (disch := omega) [h1, h2, h3, h4, show ¬ k - 16 < 16 by omega,
      show ¬ k - 32 < 16 by omega, show k - 48 < 16 by omega,
      show ¬ k - 8 < 8 by omega, show 48 + (k - 48) = k by omega]

namespace Machine

/-- The word of the packet of a word is that word. -/
@[simp] theorem SetupPkt.word_ofWord (w : Setup64) : (SetupPkt.ofWord w).word = w :=
  Setup64.ofFields_eta w

/-- The packet of the word of a packet is that packet. -/
@[simp] theorem SetupPkt.ofWord_word (p : SetupPkt) : SetupPkt.ofWord p.word = p := by
  simp [SetupPkt.ofWord, SetupPkt.word]

end Machine

end Sys2Proof
end

