-- ==== Sys2Proof/Laws/State.lean ====
section
/-! SUPPORT. One lemma per field per update: what each named operation that writes State leaves in
each field, so that no proof unfolds a record update. -/

namespace Sys2Proof.Machine

variable (s : State)

/-! ### ep0AckSetup s -/

@[simp] theorem ep0AckSetup_cfg : (ep0AckSetup s).cfg = s.cfg := rfl
@[simp] theorem ep0AckSetup_keyMask : (ep0AckSetup s).keyMask = s.keyMask := rfl
@[simp] theorem ep0AckSetup_kpCell : (ep0AckSetup s).kpCell = s.kpCell := rfl
@[simp] theorem ep0AckSetup_kpOverrun : (ep0AckSetup s).kpOverrun = s.kpOverrun := rfl
@[simp] theorem ep0AckSetup_configuration : (ep0AckSetup s).configuration = s.configuration := rfl
@[simp] theorem ep0AckSetup_modifierKeys : (ep0AckSetup s).modifierKeys = s.modifierKeys := rfl
@[simp] theorem ep0AckSetup_keyboardKeys : (ep0AckSetup s).keyboardKeys = s.keyboardKeys := rfl
@[simp] theorem ep0AckSetup_protocol : (ep0AckSetup s).protocol = s.protocol := rfl
@[simp] theorem ep0AckSetup_idleConfig : (ep0AckSetup s).idleConfig = s.idleConfig := rfl
@[simp] theorem ep0AckSetup_idleCount : (ep0AckSetup s).idleCount = s.idleCount := rfl
@[simp] theorem ep0AckSetup_sofDiv : (ep0AckSetup s).sofDiv = s.sofDiv := rfl
@[simp] theorem ep0AckSetup_ctlPhase : (ep0AckSetup s).ctlPhase = s.ctlPhase := rfl
@[simp] theorem ep0AckSetup_sendPhase : (ep0AckSetup s).sendPhase = s.sendPhase := rfl
@[simp] theorem ep0AckSetup_setupPkt : (ep0AckSetup s).setupPkt = s.setupPkt := rfl
@[simp] theorem ep0AckSetup_ep0Cfg : (ep0AckSetup s).ep0Cfg = s.ep0Cfg := rfl
@[simp] theorem ep0AckSetup_kbCfg : (ep0AckSetup s).kbCfg = s.kbCfg := rfl
@[simp] theorem ep0AckSetup_ep0Stall : (ep0AckSetup s).ep0Stall = s.ep0Stall := rfl
@[simp] theorem ep0AckSetup_devAddr : (ep0AckSetup s).devAddr = s.devAddr := rfl
@[simp] theorem ep0AckSetup_addrEn : (ep0AckSetup s).addrEn = s.addrEn := rfl
@[simp] theorem ep0AckSetup_padRegOn : (ep0AckSetup s).padRegOn = s.padRegOn := rfl
@[simp] theorem ep0AckSetup_pllOn : (ep0AckSetup s).pllOn = s.pllOn := rfl
@[simp] theorem ep0AckSetup_usbOn : (ep0AckSetup s).usbOn = s.usbOn := rfl
@[simp] theorem ep0AckSetup_giEnEorst : (ep0AckSetup s).giEnEorst = s.giEnEorst := rfl
@[simp] theorem ep0AckSetup_giEnSof : (ep0AckSetup s).giEnSof = s.giEnSof := rfl
@[simp] theorem ep0AckSetup_attached : (ep0AckSetup s).attached = s.attached := rfl
@[simp] theorem ep0AckSetup_intEnable : (ep0AckSetup s).intEnable = s.intEnable := rfl
@[simp] theorem ep0AckSetup_inHandler : (ep0AckSetup s).inHandler = s.inHandler := rfl
@[simp] theorem ep0AckSetup_pendTick : (ep0AckSetup s).pendTick = s.pendTick := rfl
@[simp] theorem ep0AckSetup_pendGen : (ep0AckSetup s).pendGen = s.pendGen := rfl
@[simp] theorem ep0AckSetup_pendEp : (ep0AckSetup s).pendEp = s.pendEp := rfl
@[simp] theorem ep0AckSetup_causeEorst : (ep0AckSetup s).causeEorst = s.causeEorst := rfl
@[simp] theorem ep0AckSetup_causeSof : (ep0AckSetup s).causeSof = s.causeSof := rfl
@[simp] theorem ep0AckSetup_txLog : (ep0AckSetup s).txLog = s.txLog := rfl
@[simp] theorem ep0AckSetup_results : (ep0AckSetup s).results = s.results := rfl
@[simp] theorem ep0AckSetup_sw : (ep0AckSetup s).sw = s.sw := rfl
@[simp] theorem ep0AckSetup_pllLocked : (ep0AckSetup s).pllLocked = s.pllLocked := rfl
@[simp] theorem ep0AckSetup_ep0Rxstp : (ep0AckSetup s).ep0Rxstp = false := rfl
@[simp] theorem ep0AckSetup_ep0Rxout : (ep0AckSetup s).ep0Rxout = false := rfl
@[simp] theorem ep0AckSetup_ep0Txini : (ep0AckSetup s).ep0Txini = false := rfl
@[simp] theorem ep0AckSetup_kbRwal : (ep0AckSetup s).kbRwal = s.kbRwal := rfl
@[simp] theorem ep0AckSetup_frameNum : (ep0AckSetup s).frameNum = s.frameNum := rfl
@[simp] theorem ep0AckSetup_ep0Rx : (ep0AckSetup s).ep0Rx = [] := rfl
@[simp] theorem ep0AckSetup_ep0Tx : (ep0AckSetup s).ep0Tx = [] := rfl
@[simp] theorem ep0AckSetup_kbTx : (ep0AckSetup s).kbTx = s.kbTx := rfl
@[simp] theorem ep0AckSetup_ep0Banks : (ep0AckSetup s).ep0Banks = [] := rfl
@[simp] theorem ep0AckSetup_kbBanks : (ep0AckSetup s).kbBanks = s.kbBanks := rfl
@[simp] theorem ep0AckSetup_fg : (ep0AckSetup s).fg = s.fg := rfl
@[simp] theorem ep0AckSetup_sched : (ep0AckSetup s).sched = s.sched := rfl
@[simp] theorem ep0AckSetup_draws : (ep0AckSetup s).draws = s.draws := rfl

/-! ### ep0Config c s -/

@[simp] theorem ep0Config_cfg (c : Ep0Cfg) : (ep0Config c s).cfg = s.cfg := rfl
@[simp] theorem ep0Config_keyMask (c : Ep0Cfg) : (ep0Config c s).keyMask = s.keyMask := rfl
@[simp] theorem ep0Config_kpCell (c : Ep0Cfg) : (ep0Config c s).kpCell = s.kpCell := rfl
@[simp] theorem ep0Config_kpOverrun (c : Ep0Cfg) : (ep0Config c s).kpOverrun = s.kpOverrun := rfl
@[simp] theorem ep0Config_configuration (c : Ep0Cfg) : (ep0Config c s).configuration = s.configuration := rfl
@[simp] theorem ep0Config_modifierKeys (c : Ep0Cfg) : (ep0Config c s).modifierKeys = s.modifierKeys := rfl
@[simp] theorem ep0Config_keyboardKeys (c : Ep0Cfg) : (ep0Config c s).keyboardKeys = s.keyboardKeys := rfl
@[simp] theorem ep0Config_protocol (c : Ep0Cfg) : (ep0Config c s).protocol = s.protocol := rfl
@[simp] theorem ep0Config_idleConfig (c : Ep0Cfg) : (ep0Config c s).idleConfig = s.idleConfig := rfl
@[simp] theorem ep0Config_idleCount (c : Ep0Cfg) : (ep0Config c s).idleCount = s.idleCount := rfl
@[simp] theorem ep0Config_sofDiv (c : Ep0Cfg) : (ep0Config c s).sofDiv = s.sofDiv := rfl
@[simp] theorem ep0Config_ctlPhase (c : Ep0Cfg) : (ep0Config c s).ctlPhase = s.ctlPhase := rfl
@[simp] theorem ep0Config_sendPhase (c : Ep0Cfg) : (ep0Config c s).sendPhase = s.sendPhase := rfl
@[simp] theorem ep0Config_setupPkt (c : Ep0Cfg) : (ep0Config c s).setupPkt = s.setupPkt := rfl
@[simp] theorem ep0Config_ep0Cfg (c : Ep0Cfg) : (ep0Config c s).ep0Cfg = c := rfl
@[simp] theorem ep0Config_kbCfg (c : Ep0Cfg) : (ep0Config c s).kbCfg = s.kbCfg := rfl
@[simp] theorem ep0Config_ep0Stall (c : Ep0Cfg) : (ep0Config c s).ep0Stall = s.ep0Stall := rfl
@[simp] theorem ep0Config_devAddr (c : Ep0Cfg) : (ep0Config c s).devAddr = s.devAddr := rfl
@[simp] theorem ep0Config_addrEn (c : Ep0Cfg) : (ep0Config c s).addrEn = s.addrEn := rfl
@[simp] theorem ep0Config_padRegOn (c : Ep0Cfg) : (ep0Config c s).padRegOn = s.padRegOn := rfl
@[simp] theorem ep0Config_pllOn (c : Ep0Cfg) : (ep0Config c s).pllOn = s.pllOn := rfl
@[simp] theorem ep0Config_usbOn (c : Ep0Cfg) : (ep0Config c s).usbOn = s.usbOn := rfl
@[simp] theorem ep0Config_giEnEorst (c : Ep0Cfg) : (ep0Config c s).giEnEorst = s.giEnEorst := rfl
@[simp] theorem ep0Config_giEnSof (c : Ep0Cfg) : (ep0Config c s).giEnSof = s.giEnSof := rfl
@[simp] theorem ep0Config_attached (c : Ep0Cfg) : (ep0Config c s).attached = s.attached := rfl
@[simp] theorem ep0Config_intEnable (c : Ep0Cfg) : (ep0Config c s).intEnable = s.intEnable := rfl
@[simp] theorem ep0Config_inHandler (c : Ep0Cfg) : (ep0Config c s).inHandler = s.inHandler := rfl
@[simp] theorem ep0Config_pendTick (c : Ep0Cfg) : (ep0Config c s).pendTick = s.pendTick := rfl
@[simp] theorem ep0Config_pendGen (c : Ep0Cfg) : (ep0Config c s).pendGen = s.pendGen := rfl
@[simp] theorem ep0Config_pendEp (c : Ep0Cfg) : (ep0Config c s).pendEp = s.pendEp := rfl
@[simp] theorem ep0Config_causeEorst (c : Ep0Cfg) : (ep0Config c s).causeEorst = s.causeEorst := rfl
@[simp] theorem ep0Config_causeSof (c : Ep0Cfg) : (ep0Config c s).causeSof = s.causeSof := rfl
@[simp] theorem ep0Config_txLog (c : Ep0Cfg) : (ep0Config c s).txLog = s.txLog := rfl
@[simp] theorem ep0Config_results (c : Ep0Cfg) : (ep0Config c s).results = s.results := rfl
@[simp] theorem ep0Config_sw (c : Ep0Cfg) : (ep0Config c s).sw = s.sw := rfl
@[simp] theorem ep0Config_pllLocked (c : Ep0Cfg) : (ep0Config c s).pllLocked = s.pllLocked := rfl
@[simp] theorem ep0Config_ep0Rxstp (c : Ep0Cfg) : (ep0Config c s).ep0Rxstp = s.ep0Rxstp := rfl
@[simp] theorem ep0Config_ep0Rxout (c : Ep0Cfg) : (ep0Config c s).ep0Rxout = s.ep0Rxout := rfl
@[simp] theorem ep0Config_ep0Txini (c : Ep0Cfg) : (ep0Config c s).ep0Txini = s.ep0Txini := rfl
@[simp] theorem ep0Config_kbRwal (c : Ep0Cfg) : (ep0Config c s).kbRwal = s.kbRwal := rfl
@[simp] theorem ep0Config_frameNum (c : Ep0Cfg) : (ep0Config c s).frameNum = s.frameNum := rfl
@[simp] theorem ep0Config_ep0Rx (c : Ep0Cfg) : (ep0Config c s).ep0Rx = s.ep0Rx := rfl
@[simp] theorem ep0Config_ep0Tx (c : Ep0Cfg) : (ep0Config c s).ep0Tx = s.ep0Tx := rfl
@[simp] theorem ep0Config_kbTx (c : Ep0Cfg) : (ep0Config c s).kbTx = s.kbTx := rfl
@[simp] theorem ep0Config_ep0Banks (c : Ep0Cfg) : (ep0Config c s).ep0Banks = s.ep0Banks := rfl
@[simp] theorem ep0Config_kbBanks (c : Ep0Cfg) : (ep0Config c s).kbBanks = s.kbBanks := rfl
@[simp] theorem ep0Config_fg (c : Ep0Cfg) : (ep0Config c s).fg = s.fg := rfl
@[simp] theorem ep0Config_sched (c : Ep0Cfg) : (ep0Config c s).sched = s.sched := rfl
@[simp] theorem ep0Config_draws (c : Ep0Cfg) : (ep0Config c s).draws = s.draws := rfl

/-! ### kbConfig c s -/

@[simp] theorem kbConfig_cfg (c : KbCfg) : (kbConfig c s).cfg = s.cfg := rfl
@[simp] theorem kbConfig_keyMask (c : KbCfg) : (kbConfig c s).keyMask = s.keyMask := rfl
@[simp] theorem kbConfig_kpCell (c : KbCfg) : (kbConfig c s).kpCell = s.kpCell := rfl
@[simp] theorem kbConfig_kpOverrun (c : KbCfg) : (kbConfig c s).kpOverrun = s.kpOverrun := rfl
@[simp] theorem kbConfig_configuration (c : KbCfg) : (kbConfig c s).configuration = s.configuration := rfl
@[simp] theorem kbConfig_modifierKeys (c : KbCfg) : (kbConfig c s).modifierKeys = s.modifierKeys := rfl
@[simp] theorem kbConfig_keyboardKeys (c : KbCfg) : (kbConfig c s).keyboardKeys = s.keyboardKeys := rfl
@[simp] theorem kbConfig_protocol (c : KbCfg) : (kbConfig c s).protocol = s.protocol := rfl
@[simp] theorem kbConfig_idleConfig (c : KbCfg) : (kbConfig c s).idleConfig = s.idleConfig := rfl
@[simp] theorem kbConfig_idleCount (c : KbCfg) : (kbConfig c s).idleCount = s.idleCount := rfl
@[simp] theorem kbConfig_sofDiv (c : KbCfg) : (kbConfig c s).sofDiv = s.sofDiv := rfl
@[simp] theorem kbConfig_ctlPhase (c : KbCfg) : (kbConfig c s).ctlPhase = s.ctlPhase := rfl
@[simp] theorem kbConfig_sendPhase (c : KbCfg) : (kbConfig c s).sendPhase = s.sendPhase := rfl
@[simp] theorem kbConfig_setupPkt (c : KbCfg) : (kbConfig c s).setupPkt = s.setupPkt := rfl
@[simp] theorem kbConfig_ep0Cfg (c : KbCfg) : (kbConfig c s).ep0Cfg = s.ep0Cfg := rfl
@[simp] theorem kbConfig_kbCfg (c : KbCfg) : (kbConfig c s).kbCfg = c := rfl
@[simp] theorem kbConfig_ep0Stall (c : KbCfg) : (kbConfig c s).ep0Stall = s.ep0Stall := rfl
@[simp] theorem kbConfig_devAddr (c : KbCfg) : (kbConfig c s).devAddr = s.devAddr := rfl
@[simp] theorem kbConfig_addrEn (c : KbCfg) : (kbConfig c s).addrEn = s.addrEn := rfl
@[simp] theorem kbConfig_padRegOn (c : KbCfg) : (kbConfig c s).padRegOn = s.padRegOn := rfl
@[simp] theorem kbConfig_pllOn (c : KbCfg) : (kbConfig c s).pllOn = s.pllOn := rfl
@[simp] theorem kbConfig_usbOn (c : KbCfg) : (kbConfig c s).usbOn = s.usbOn := rfl
@[simp] theorem kbConfig_giEnEorst (c : KbCfg) : (kbConfig c s).giEnEorst = s.giEnEorst := rfl
@[simp] theorem kbConfig_giEnSof (c : KbCfg) : (kbConfig c s).giEnSof = s.giEnSof := rfl
@[simp] theorem kbConfig_attached (c : KbCfg) : (kbConfig c s).attached = s.attached := rfl
@[simp] theorem kbConfig_intEnable (c : KbCfg) : (kbConfig c s).intEnable = s.intEnable := rfl
@[simp] theorem kbConfig_inHandler (c : KbCfg) : (kbConfig c s).inHandler = s.inHandler := rfl
@[simp] theorem kbConfig_pendTick (c : KbCfg) : (kbConfig c s).pendTick = s.pendTick := rfl
@[simp] theorem kbConfig_pendGen (c : KbCfg) : (kbConfig c s).pendGen = s.pendGen := rfl
@[simp] theorem kbConfig_pendEp (c : KbCfg) : (kbConfig c s).pendEp = s.pendEp := rfl
@[simp] theorem kbConfig_causeEorst (c : KbCfg) : (kbConfig c s).causeEorst = s.causeEorst := rfl
@[simp] theorem kbConfig_causeSof (c : KbCfg) : (kbConfig c s).causeSof = s.causeSof := rfl
@[simp] theorem kbConfig_txLog (c : KbCfg) : (kbConfig c s).txLog = s.txLog := rfl
@[simp] theorem kbConfig_results (c : KbCfg) : (kbConfig c s).results = s.results := rfl
@[simp] theorem kbConfig_sw (c : KbCfg) : (kbConfig c s).sw = s.sw := rfl
@[simp] theorem kbConfig_pllLocked (c : KbCfg) : (kbConfig c s).pllLocked = s.pllLocked := rfl
@[simp] theorem kbConfig_ep0Rxstp (c : KbCfg) : (kbConfig c s).ep0Rxstp = s.ep0Rxstp := rfl
@[simp] theorem kbConfig_ep0Rxout (c : KbCfg) : (kbConfig c s).ep0Rxout = s.ep0Rxout := rfl
@[simp] theorem kbConfig_ep0Txini (c : KbCfg) : (kbConfig c s).ep0Txini = s.ep0Txini := rfl
@[simp] theorem kbConfig_kbRwal (c : KbCfg) : (kbConfig c s).kbRwal = s.kbRwal := rfl
@[simp] theorem kbConfig_frameNum (c : KbCfg) : (kbConfig c s).frameNum = s.frameNum := rfl
@[simp] theorem kbConfig_ep0Rx (c : KbCfg) : (kbConfig c s).ep0Rx = s.ep0Rx := rfl
@[simp] theorem kbConfig_ep0Tx (c : KbCfg) : (kbConfig c s).ep0Tx = s.ep0Tx := rfl
@[simp] theorem kbConfig_kbTx (c : KbCfg) : (kbConfig c s).kbTx = s.kbTx := rfl
@[simp] theorem kbConfig_ep0Banks (c : KbCfg) : (kbConfig c s).ep0Banks = s.ep0Banks := rfl
@[simp] theorem kbConfig_kbBanks (c : KbCfg) : (kbConfig c s).kbBanks = s.kbBanks := rfl
@[simp] theorem kbConfig_fg (c : KbCfg) : (kbConfig c s).fg = s.fg := rfl
@[simp] theorem kbConfig_sched (c : KbCfg) : (kbConfig c s).sched = s.sched := rfl
@[simp] theorem kbConfig_draws (c : KbCfg) : (kbConfig c s).draws = s.draws := rfl

/-! ### ep0ForceStall s -/

@[simp] theorem ep0ForceStall_cfg : (ep0ForceStall s).cfg = s.cfg := rfl
@[simp] theorem ep0ForceStall_keyMask : (ep0ForceStall s).keyMask = s.keyMask := rfl
@[simp] theorem ep0ForceStall_kpCell : (ep0ForceStall s).kpCell = s.kpCell := rfl
@[simp] theorem ep0ForceStall_kpOverrun : (ep0ForceStall s).kpOverrun = s.kpOverrun := rfl
@[simp] theorem ep0ForceStall_configuration : (ep0ForceStall s).configuration = s.configuration := rfl
@[simp] theorem ep0ForceStall_modifierKeys : (ep0ForceStall s).modifierKeys = s.modifierKeys := rfl
@[simp] theorem ep0ForceStall_keyboardKeys : (ep0ForceStall s).keyboardKeys = s.keyboardKeys := rfl
@[simp] theorem ep0ForceStall_protocol : (ep0ForceStall s).protocol = s.protocol := rfl
@[simp] theorem ep0ForceStall_idleConfig : (ep0ForceStall s).idleConfig = s.idleConfig := rfl
@[simp] theorem ep0ForceStall_idleCount : (ep0ForceStall s).idleCount = s.idleCount := rfl
@[simp] theorem ep0ForceStall_sofDiv : (ep0ForceStall s).sofDiv = s.sofDiv := rfl
@[simp] theorem ep0ForceStall_ctlPhase : (ep0ForceStall s).ctlPhase = s.ctlPhase := rfl
@[simp] theorem ep0ForceStall_sendPhase : (ep0ForceStall s).sendPhase = s.sendPhase := rfl
@[simp] theorem ep0ForceStall_setupPkt : (ep0ForceStall s).setupPkt = s.setupPkt := rfl
@[simp] theorem ep0ForceStall_ep0Cfg : (ep0ForceStall s).ep0Cfg = s.ep0Cfg := rfl
@[simp] theorem ep0ForceStall_kbCfg : (ep0ForceStall s).kbCfg = s.kbCfg := rfl
@[simp] theorem ep0ForceStall_ep0Stall : (ep0ForceStall s).ep0Stall = true := rfl
@[simp] theorem ep0ForceStall_devAddr : (ep0ForceStall s).devAddr = s.devAddr := rfl
@[simp] theorem ep0ForceStall_addrEn : (ep0ForceStall s).addrEn = s.addrEn := rfl
@[simp] theorem ep0ForceStall_padRegOn : (ep0ForceStall s).padRegOn = s.padRegOn := rfl
@[simp] theorem ep0ForceStall_pllOn : (ep0ForceStall s).pllOn = s.pllOn := rfl
@[simp] theorem ep0ForceStall_usbOn : (ep0ForceStall s).usbOn = s.usbOn := rfl
@[simp] theorem ep0ForceStall_giEnEorst : (ep0ForceStall s).giEnEorst = s.giEnEorst := rfl
@[simp] theorem ep0ForceStall_giEnSof : (ep0ForceStall s).giEnSof = s.giEnSof := rfl
@[simp] theorem ep0ForceStall_attached : (ep0ForceStall s).attached = s.attached := rfl
@[simp] theorem ep0ForceStall_intEnable : (ep0ForceStall s).intEnable = s.intEnable := rfl
@[simp] theorem ep0ForceStall_inHandler : (ep0ForceStall s).inHandler = s.inHandler := rfl
@[simp] theorem ep0ForceStall_pendTick : (ep0ForceStall s).pendTick = s.pendTick := rfl
@[simp] theorem ep0ForceStall_pendGen : (ep0ForceStall s).pendGen = s.pendGen := rfl
@[simp] theorem ep0ForceStall_pendEp : (ep0ForceStall s).pendEp = s.pendEp := rfl
@[simp] theorem ep0ForceStall_causeEorst : (ep0ForceStall s).causeEorst = s.causeEorst := rfl
@[simp] theorem ep0ForceStall_causeSof : (ep0ForceStall s).causeSof = s.causeSof := rfl
@[simp] theorem ep0ForceStall_txLog : (ep0ForceStall s).txLog = s.txLog := rfl
@[simp] theorem ep0ForceStall_results : (ep0ForceStall s).results = s.results := rfl
@[simp] theorem ep0ForceStall_sw : (ep0ForceStall s).sw = s.sw := rfl
@[simp] theorem ep0ForceStall_pllLocked : (ep0ForceStall s).pllLocked = s.pllLocked := rfl
@[simp] theorem ep0ForceStall_ep0Rxstp : (ep0ForceStall s).ep0Rxstp = s.ep0Rxstp := rfl
@[simp] theorem ep0ForceStall_ep0Rxout : (ep0ForceStall s).ep0Rxout = s.ep0Rxout := rfl
@[simp] theorem ep0ForceStall_ep0Txini : (ep0ForceStall s).ep0Txini = s.ep0Txini := rfl
@[simp] theorem ep0ForceStall_kbRwal : (ep0ForceStall s).kbRwal = s.kbRwal := rfl
@[simp] theorem ep0ForceStall_frameNum : (ep0ForceStall s).frameNum = s.frameNum := rfl
@[simp] theorem ep0ForceStall_ep0Rx : (ep0ForceStall s).ep0Rx = s.ep0Rx := rfl
@[simp] theorem ep0ForceStall_ep0Tx : (ep0ForceStall s).ep0Tx = s.ep0Tx := rfl
@[simp] theorem ep0ForceStall_kbTx : (ep0ForceStall s).kbTx = s.kbTx := rfl
@[simp] theorem ep0ForceStall_ep0Banks : (ep0ForceStall s).ep0Banks = s.ep0Banks := rfl
@[simp] theorem ep0ForceStall_kbBanks : (ep0ForceStall s).kbBanks = s.kbBanks := rfl
@[simp] theorem ep0ForceStall_fg : (ep0ForceStall s).fg = s.fg := rfl
@[simp] theorem ep0ForceStall_sched : (ep0ForceStall s).sched = s.sched := rfl
@[simp] theorem ep0ForceStall_draws : (ep0ForceStall s).draws = s.draws := rfl

/-! ### epSend .ep0 s -/

@[simp] theorem epSend_ep0_cfg : (epSend .ep0 s).cfg = s.cfg := rfl
@[simp] theorem epSend_ep0_keyMask : (epSend .ep0 s).keyMask = s.keyMask := rfl
@[simp] theorem epSend_ep0_kpCell : (epSend .ep0 s).kpCell = s.kpCell := rfl
@[simp] theorem epSend_ep0_kpOverrun : (epSend .ep0 s).kpOverrun = s.kpOverrun := rfl
@[simp] theorem epSend_ep0_configuration : (epSend .ep0 s).configuration = s.configuration := rfl
@[simp] theorem epSend_ep0_modifierKeys : (epSend .ep0 s).modifierKeys = s.modifierKeys := rfl
@[simp] theorem epSend_ep0_keyboardKeys : (epSend .ep0 s).keyboardKeys = s.keyboardKeys := rfl
@[simp] theorem epSend_ep0_protocol : (epSend .ep0 s).protocol = s.protocol := rfl
@[simp] theorem epSend_ep0_idleConfig : (epSend .ep0 s).idleConfig = s.idleConfig := rfl
@[simp] theorem epSend_ep0_idleCount : (epSend .ep0 s).idleCount = s.idleCount := rfl
@[simp] theorem epSend_ep0_sofDiv : (epSend .ep0 s).sofDiv = s.sofDiv := rfl
@[simp] theorem epSend_ep0_ctlPhase : (epSend .ep0 s).ctlPhase = s.ctlPhase := rfl
@[simp] theorem epSend_ep0_sendPhase : (epSend .ep0 s).sendPhase = s.sendPhase := rfl
@[simp] theorem epSend_ep0_setupPkt : (epSend .ep0 s).setupPkt = s.setupPkt := rfl
@[simp] theorem epSend_ep0_ep0Cfg : (epSend .ep0 s).ep0Cfg = s.ep0Cfg := rfl
@[simp] theorem epSend_ep0_kbCfg : (epSend .ep0 s).kbCfg = s.kbCfg := rfl
@[simp] theorem epSend_ep0_ep0Stall : (epSend .ep0 s).ep0Stall = s.ep0Stall := rfl
@[simp] theorem epSend_ep0_devAddr : (epSend .ep0 s).devAddr = s.devAddr := rfl
@[simp] theorem epSend_ep0_addrEn : (epSend .ep0 s).addrEn = s.addrEn := rfl
@[simp] theorem epSend_ep0_padRegOn : (epSend .ep0 s).padRegOn = s.padRegOn := rfl
@[simp] theorem epSend_ep0_pllOn : (epSend .ep0 s).pllOn = s.pllOn := rfl
@[simp] theorem epSend_ep0_usbOn : (epSend .ep0 s).usbOn = s.usbOn := rfl
@[simp] theorem epSend_ep0_giEnEorst : (epSend .ep0 s).giEnEorst = s.giEnEorst := rfl
@[simp] theorem epSend_ep0_giEnSof : (epSend .ep0 s).giEnSof = s.giEnSof := rfl
@[simp] theorem epSend_ep0_attached : (epSend .ep0 s).attached = s.attached := rfl
@[simp] theorem epSend_ep0_intEnable : (epSend .ep0 s).intEnable = s.intEnable := rfl
@[simp] theorem epSend_ep0_inHandler : (epSend .ep0 s).inHandler = s.inHandler := rfl
@[simp] theorem epSend_ep0_pendTick : (epSend .ep0 s).pendTick = s.pendTick := rfl
@[simp] theorem epSend_ep0_pendGen : (epSend .ep0 s).pendGen = s.pendGen := rfl
@[simp] theorem epSend_ep0_pendEp : (epSend .ep0 s).pendEp = s.pendEp := rfl
@[simp] theorem epSend_ep0_causeEorst : (epSend .ep0 s).causeEorst = s.causeEorst := rfl
@[simp] theorem epSend_ep0_causeSof : (epSend .ep0 s).causeSof = s.causeSof := rfl
@[simp] theorem epSend_ep0_txLog : (epSend .ep0 s).txLog = s.txLog ++ [⟨0, s.ep0Tx⟩] := rfl
@[simp] theorem epSend_ep0_results : (epSend .ep0 s).results = s.results := rfl
@[simp] theorem epSend_ep0_sw : (epSend .ep0 s).sw = s.sw := rfl
@[simp] theorem epSend_ep0_pllLocked : (epSend .ep0 s).pllLocked = s.pllLocked := rfl
@[simp] theorem epSend_ep0_ep0Rxstp : (epSend .ep0 s).ep0Rxstp = s.ep0Rxstp := rfl
@[simp] theorem epSend_ep0_ep0Rxout : (epSend .ep0 s).ep0Rxout = s.ep0Rxout := rfl
@[simp] theorem epSend_ep0_ep0Txini : (epSend .ep0 s).ep0Txini = false := rfl
@[simp] theorem epSend_ep0_kbRwal : (epSend .ep0 s).kbRwal = s.kbRwal := rfl
@[simp] theorem epSend_ep0_frameNum : (epSend .ep0 s).frameNum = s.frameNum := rfl
@[simp] theorem epSend_ep0_ep0Rx : (epSend .ep0 s).ep0Rx = s.ep0Rx := rfl
@[simp] theorem epSend_ep0_ep0Tx : (epSend .ep0 s).ep0Tx = [] := rfl
@[simp] theorem epSend_ep0_kbTx : (epSend .ep0 s).kbTx = s.kbTx := rfl
@[simp] theorem epSend_ep0_ep0Banks : (epSend .ep0 s).ep0Banks = s.ep0Filled s.ep0Tx := rfl
@[simp] theorem epSend_ep0_kbBanks : (epSend .ep0 s).kbBanks = s.kbBanks := rfl
@[simp] theorem epSend_ep0_fg : (epSend .ep0 s).fg = s.fg := rfl
@[simp] theorem epSend_ep0_sched : (epSend .ep0 s).sched = s.sched := rfl
@[simp] theorem epSend_ep0_draws : (epSend .ep0 s).draws = s.draws := rfl

/-! ### epSend .kb s -/

@[simp] theorem epSend_kb_cfg : (epSend .kb s).cfg = s.cfg := rfl
@[simp] theorem epSend_kb_keyMask : (epSend .kb s).keyMask = s.keyMask := rfl
@[simp] theorem epSend_kb_kpCell : (epSend .kb s).kpCell = s.kpCell := rfl
@[simp] theorem epSend_kb_kpOverrun : (epSend .kb s).kpOverrun = s.kpOverrun := rfl
@[simp] theorem epSend_kb_configuration : (epSend .kb s).configuration = s.configuration := rfl
@[simp] theorem epSend_kb_modifierKeys : (epSend .kb s).modifierKeys = s.modifierKeys := rfl
@[simp] theorem epSend_kb_keyboardKeys : (epSend .kb s).keyboardKeys = s.keyboardKeys := rfl
@[simp] theorem epSend_kb_protocol : (epSend .kb s).protocol = s.protocol := rfl
@[simp] theorem epSend_kb_idleConfig : (epSend .kb s).idleConfig = s.idleConfig := rfl
@[simp] theorem epSend_kb_idleCount : (epSend .kb s).idleCount = s.idleCount := rfl
@[simp] theorem epSend_kb_sofDiv : (epSend .kb s).sofDiv = s.sofDiv := rfl
@[simp] theorem epSend_kb_ctlPhase : (epSend .kb s).ctlPhase = s.ctlPhase := rfl
@[simp] theorem epSend_kb_sendPhase : (epSend .kb s).sendPhase = s.sendPhase := rfl
@[simp] theorem epSend_kb_setupPkt : (epSend .kb s).setupPkt = s.setupPkt := rfl
@[simp] theorem epSend_kb_ep0Cfg : (epSend .kb s).ep0Cfg = s.ep0Cfg := rfl
@[simp] theorem epSend_kb_kbCfg : (epSend .kb s).kbCfg = s.kbCfg := rfl
@[simp] theorem epSend_kb_ep0Stall : (epSend .kb s).ep0Stall = s.ep0Stall := rfl
@[simp] theorem epSend_kb_devAddr : (epSend .kb s).devAddr = s.devAddr := rfl
@[simp] theorem epSend_kb_addrEn : (epSend .kb s).addrEn = s.addrEn := rfl
@[simp] theorem epSend_kb_padRegOn : (epSend .kb s).padRegOn = s.padRegOn := rfl
@[simp] theorem epSend_kb_pllOn : (epSend .kb s).pllOn = s.pllOn := rfl
@[simp] theorem epSend_kb_usbOn : (epSend .kb s).usbOn = s.usbOn := rfl
@[simp] theorem epSend_kb_giEnEorst : (epSend .kb s).giEnEorst = s.giEnEorst := rfl
@[simp] theorem epSend_kb_giEnSof : (epSend .kb s).giEnSof = s.giEnSof := rfl
@[simp] theorem epSend_kb_attached : (epSend .kb s).attached = s.attached := rfl
@[simp] theorem epSend_kb_intEnable : (epSend .kb s).intEnable = s.intEnable := rfl
@[simp] theorem epSend_kb_inHandler : (epSend .kb s).inHandler = s.inHandler := rfl
@[simp] theorem epSend_kb_pendTick : (epSend .kb s).pendTick = s.pendTick := rfl
@[simp] theorem epSend_kb_pendGen : (epSend .kb s).pendGen = s.pendGen := rfl
@[simp] theorem epSend_kb_pendEp : (epSend .kb s).pendEp = s.pendEp := rfl
@[simp] theorem epSend_kb_causeEorst : (epSend .kb s).causeEorst = s.causeEorst := rfl
@[simp] theorem epSend_kb_causeSof : (epSend .kb s).causeSof = s.causeSof := rfl
@[simp] theorem epSend_kb_txLog : (epSend .kb s).txLog = s.txLog ++ [⟨s.cfg.kbEp, s.kbTx⟩] := rfl
@[simp] theorem epSend_kb_results : (epSend .kb s).results = s.results := rfl
@[simp] theorem epSend_kb_sw : (epSend .kb s).sw = s.sw := rfl
@[simp] theorem epSend_kb_pllLocked : (epSend .kb s).pllLocked = s.pllLocked := rfl
@[simp] theorem epSend_kb_ep0Rxstp : (epSend .kb s).ep0Rxstp = s.ep0Rxstp := rfl
@[simp] theorem epSend_kb_ep0Rxout : (epSend .kb s).ep0Rxout = s.ep0Rxout := rfl
@[simp] theorem epSend_kb_ep0Txini : (epSend .kb s).ep0Txini = s.ep0Txini := rfl
@[simp] theorem epSend_kb_kbRwal : (epSend .kb s).kbRwal = false := rfl
@[simp] theorem epSend_kb_frameNum : (epSend .kb s).frameNum = s.frameNum := rfl
@[simp] theorem epSend_kb_ep0Rx : (epSend .kb s).ep0Rx = s.ep0Rx := rfl
@[simp] theorem epSend_kb_ep0Tx : (epSend .kb s).ep0Tx = s.ep0Tx := rfl
@[simp] theorem epSend_kb_kbTx : (epSend .kb s).kbTx = [] := rfl
@[simp] theorem epSend_kb_ep0Banks : (epSend .kb s).ep0Banks = s.ep0Banks := rfl
@[simp] theorem epSend_kb_kbBanks : (epSend .kb s).kbBanks = s.kbFilled s.kbTx := rfl
@[simp] theorem epSend_kb_fg : (epSend .kb s).fg = s.fg := rfl
@[simp] theorem epSend_kb_sched : (epSend .kb s).sched = s.sched := rfl
@[simp] theorem epSend_kb_draws : (epSend .kb s).draws = s.draws := rfl

/-! ### epReset .kb s -/

@[simp] theorem epReset_kb_cfg : (epReset .kb s).cfg = s.cfg := rfl
@[simp] theorem epReset_kb_keyMask : (epReset .kb s).keyMask = s.keyMask := rfl
@[simp] theorem epReset_kb_kpCell : (epReset .kb s).kpCell = s.kpCell := rfl
@[simp] theorem epReset_kb_kpOverrun : (epReset .kb s).kpOverrun = s.kpOverrun := rfl
@[simp] theorem epReset_kb_configuration : (epReset .kb s).configuration = s.configuration := rfl
@[simp] theorem epReset_kb_modifierKeys : (epReset .kb s).modifierKeys = s.modifierKeys := rfl
@[simp] theorem epReset_kb_keyboardKeys : (epReset .kb s).keyboardKeys = s.keyboardKeys := rfl
@[simp] theorem epReset_kb_protocol : (epReset .kb s).protocol = s.protocol := rfl
@[simp] theorem epReset_kb_idleConfig : (epReset .kb s).idleConfig = s.idleConfig := rfl
@[simp] theorem epReset_kb_idleCount : (epReset .kb s).idleCount = s.idleCount := rfl
@[simp] theorem epReset_kb_sofDiv : (epReset .kb s).sofDiv = s.sofDiv := rfl
@[simp] theorem epReset_kb_ctlPhase : (epReset .kb s).ctlPhase = s.ctlPhase := rfl
@[simp] theorem epReset_kb_sendPhase : (epReset .kb s).sendPhase = s.sendPhase := rfl
@[simp] theorem epReset_kb_setupPkt : (epReset .kb s).setupPkt = s.setupPkt := rfl
@[simp] theorem epReset_kb_ep0Cfg : (epReset .kb s).ep0Cfg = s.ep0Cfg := rfl
@[simp] theorem epReset_kb_kbCfg : (epReset .kb s).kbCfg = s.kbCfg := rfl
@[simp] theorem epReset_kb_ep0Stall : (epReset .kb s).ep0Stall = s.ep0Stall := rfl
@[simp] theorem epReset_kb_devAddr : (epReset .kb s).devAddr = s.devAddr := rfl
@[simp] theorem epReset_kb_addrEn : (epReset .kb s).addrEn = s.addrEn := rfl
@[simp] theorem epReset_kb_padRegOn : (epReset .kb s).padRegOn = s.padRegOn := rfl
@[simp] theorem epReset_kb_pllOn : (epReset .kb s).pllOn = s.pllOn := rfl
@[simp] theorem epReset_kb_usbOn : (epReset .kb s).usbOn = s.usbOn := rfl
@[simp] theorem epReset_kb_giEnEorst : (epReset .kb s).giEnEorst = s.giEnEorst := rfl
@[simp] theorem epReset_kb_giEnSof : (epReset .kb s).giEnSof = s.giEnSof := rfl
@[simp] theorem epReset_kb_attached : (epReset .kb s).attached = s.attached := rfl
@[simp] theorem epReset_kb_intEnable : (epReset .kb s).intEnable = s.intEnable := rfl
@[simp] theorem epReset_kb_inHandler : (epReset .kb s).inHandler = s.inHandler := rfl
@[simp] theorem epReset_kb_pendTick : (epReset .kb s).pendTick = s.pendTick := rfl
@[simp] theorem epReset_kb_pendGen : (epReset .kb s).pendGen = s.pendGen := rfl
@[simp] theorem epReset_kb_pendEp : (epReset .kb s).pendEp = s.pendEp := rfl
@[simp] theorem epReset_kb_causeEorst : (epReset .kb s).causeEorst = s.causeEorst := rfl
@[simp] theorem epReset_kb_causeSof : (epReset .kb s).causeSof = s.causeSof := rfl
@[simp] theorem epReset_kb_txLog : (epReset .kb s).txLog = s.txLog := rfl
@[simp] theorem epReset_kb_results : (epReset .kb s).results = s.results := rfl
@[simp] theorem epReset_kb_sw : (epReset .kb s).sw = s.sw := rfl
@[simp] theorem epReset_kb_pllLocked : (epReset .kb s).pllLocked = s.pllLocked := rfl
@[simp] theorem epReset_kb_ep0Rxstp : (epReset .kb s).ep0Rxstp = s.ep0Rxstp := rfl
@[simp] theorem epReset_kb_ep0Rxout : (epReset .kb s).ep0Rxout = s.ep0Rxout := rfl
@[simp] theorem epReset_kb_ep0Txini : (epReset .kb s).ep0Txini = s.ep0Txini := rfl
@[simp] theorem epReset_kb_kbRwal : (epReset .kb s).kbRwal = s.kbCfg.enabled := rfl
@[simp] theorem epReset_kb_frameNum : (epReset .kb s).frameNum = s.frameNum := rfl
@[simp] theorem epReset_kb_ep0Rx : (epReset .kb s).ep0Rx = s.ep0Rx := rfl
@[simp] theorem epReset_kb_ep0Tx : (epReset .kb s).ep0Tx = s.ep0Tx := rfl
@[simp] theorem epReset_kb_kbTx : (epReset .kb s).kbTx = [] := rfl
@[simp] theorem epReset_kb_ep0Banks : (epReset .kb s).ep0Banks = s.ep0Banks := rfl
@[simp] theorem epReset_kb_kbBanks : (epReset .kb s).kbBanks = [] := rfl
@[simp] theorem epReset_kb_fg : (epReset .kb s).fg = s.fg := rfl
@[simp] theorem epReset_kb_sched : (epReset .kb s).sched = s.sched := rfl
@[simp] theorem epReset_kb_draws : (epReset .kb s).draws = s.draws := rfl

/-! ### protocolStall r s -/

@[simp] theorem protocolStall_cfg (r : StallReason) : (protocolStall r s).cfg = s.cfg := rfl
@[simp] theorem protocolStall_keyMask (r : StallReason) : (protocolStall r s).keyMask = s.keyMask := rfl
@[simp] theorem protocolStall_kpCell (r : StallReason) : (protocolStall r s).kpCell = s.kpCell := rfl
@[simp] theorem protocolStall_kpOverrun (r : StallReason) : (protocolStall r s).kpOverrun = s.kpOverrun := rfl
@[simp] theorem protocolStall_configuration (r : StallReason) : (protocolStall r s).configuration = s.configuration := rfl
@[simp] theorem protocolStall_modifierKeys (r : StallReason) : (protocolStall r s).modifierKeys = s.modifierKeys := rfl
@[simp] theorem protocolStall_keyboardKeys (r : StallReason) : (protocolStall r s).keyboardKeys = s.keyboardKeys := rfl
@[simp] theorem protocolStall_protocol (r : StallReason) : (protocolStall r s).protocol = s.protocol := rfl
@[simp] theorem protocolStall_idleConfig (r : StallReason) : (protocolStall r s).idleConfig = s.idleConfig := rfl
@[simp] theorem protocolStall_idleCount (r : StallReason) : (protocolStall r s).idleCount = s.idleCount := rfl
@[simp] theorem protocolStall_sofDiv (r : StallReason) : (protocolStall r s).sofDiv = s.sofDiv := rfl
@[simp] theorem protocolStall_ctlPhase (r : StallReason) : (protocolStall r s).ctlPhase = .idle := rfl
@[simp] theorem protocolStall_sendPhase (r : StallReason) : (protocolStall r s).sendPhase = s.sendPhase := rfl
@[simp] theorem protocolStall_setupPkt (r : StallReason) : (protocolStall r s).setupPkt = s.setupPkt := rfl
@[simp] theorem protocolStall_ep0Cfg (r : StallReason) : (protocolStall r s).ep0Cfg = s.ep0Cfg := rfl
@[simp] theorem protocolStall_kbCfg (r : StallReason) : (protocolStall r s).kbCfg = s.kbCfg := rfl
@[simp] theorem protocolStall_ep0Stall (r : StallReason) : (protocolStall r s).ep0Stall = true := rfl
@[simp] theorem protocolStall_devAddr (r : StallReason) : (protocolStall r s).devAddr = s.devAddr := rfl
@[simp] theorem protocolStall_addrEn (r : StallReason) : (protocolStall r s).addrEn = s.addrEn := rfl
@[simp] theorem protocolStall_padRegOn (r : StallReason) : (protocolStall r s).padRegOn = s.padRegOn := rfl
@[simp] theorem protocolStall_pllOn (r : StallReason) : (protocolStall r s).pllOn = s.pllOn := rfl
@[simp] theorem protocolStall_usbOn (r : StallReason) : (protocolStall r s).usbOn = s.usbOn := rfl
@[simp] theorem protocolStall_giEnEorst (r : StallReason) : (protocolStall r s).giEnEorst = s.giEnEorst := rfl
@[simp] theorem protocolStall_giEnSof (r : StallReason) : (protocolStall r s).giEnSof = s.giEnSof := rfl
@[simp] theorem protocolStall_attached (r : StallReason) : (protocolStall r s).attached = s.attached := rfl
@[simp] theorem protocolStall_intEnable (r : StallReason) : (protocolStall r s).intEnable = s.intEnable := rfl
@[simp] theorem protocolStall_inHandler (r : StallReason) : (protocolStall r s).inHandler = s.inHandler := rfl
@[simp] theorem protocolStall_pendTick (r : StallReason) : (protocolStall r s).pendTick = s.pendTick := rfl
@[simp] theorem protocolStall_pendGen (r : StallReason) : (protocolStall r s).pendGen = s.pendGen := rfl
@[simp] theorem protocolStall_pendEp (r : StallReason) : (protocolStall r s).pendEp = s.pendEp := rfl
@[simp] theorem protocolStall_causeEorst (r : StallReason) : (protocolStall r s).causeEorst = s.causeEorst := rfl
@[simp] theorem protocolStall_causeSof (r : StallReason) : (protocolStall r s).causeSof = s.causeSof := rfl
@[simp] theorem protocolStall_txLog (r : StallReason) : (protocolStall r s).txLog = s.txLog := rfl
@[simp] theorem protocolStall_results (r : StallReason) : (protocolStall r s).results = s.results := rfl
@[simp] theorem protocolStall_sw (r : StallReason) : (protocolStall r s).sw = s.sw := rfl
@[simp] theorem protocolStall_pllLocked (r : StallReason) : (protocolStall r s).pllLocked = s.pllLocked := rfl
@[simp] theorem protocolStall_ep0Rxstp (r : StallReason) : (protocolStall r s).ep0Rxstp = s.ep0Rxstp := rfl
@[simp] theorem protocolStall_ep0Rxout (r : StallReason) : (protocolStall r s).ep0Rxout = s.ep0Rxout := rfl
@[simp] theorem protocolStall_ep0Txini (r : StallReason) : (protocolStall r s).ep0Txini = s.ep0Txini := rfl
@[simp] theorem protocolStall_kbRwal (r : StallReason) : (protocolStall r s).kbRwal = s.kbRwal := rfl
@[simp] theorem protocolStall_frameNum (r : StallReason) : (protocolStall r s).frameNum = s.frameNum := rfl
@[simp] theorem protocolStall_ep0Rx (r : StallReason) : (protocolStall r s).ep0Rx = s.ep0Rx := rfl
@[simp] theorem protocolStall_ep0Tx (r : StallReason) : (protocolStall r s).ep0Tx = s.ep0Tx := rfl
@[simp] theorem protocolStall_kbTx (r : StallReason) : (protocolStall r s).kbTx = s.kbTx := rfl
@[simp] theorem protocolStall_ep0Banks (r : StallReason) : (protocolStall r s).ep0Banks = s.ep0Banks := rfl
@[simp] theorem protocolStall_kbBanks (r : StallReason) : (protocolStall r s).kbBanks = s.kbBanks := rfl
@[simp] theorem protocolStall_fg (r : StallReason) : (protocolStall r s).fg = s.fg := rfl
@[simp] theorem protocolStall_sched (r : StallReason) : (protocolStall r s).sched = s.sched := rfl
@[simp] theorem protocolStall_draws (r : StallReason) : (protocolStall r s).draws = s.draws := rfl

/-! ### finishCommand r s -/

@[simp] theorem finishCommand_cfg (r : Result) : (finishCommand r s).cfg = s.cfg := rfl
@[simp] theorem finishCommand_keyMask (r : Result) : (finishCommand r s).keyMask = s.keyMask := rfl
@[simp] theorem finishCommand_kpCell (r : Result) : (finishCommand r s).kpCell = s.kpCell := rfl
@[simp] theorem finishCommand_kpOverrun (r : Result) : (finishCommand r s).kpOverrun = s.kpOverrun := rfl
@[simp] theorem finishCommand_configuration (r : Result) : (finishCommand r s).configuration = s.configuration := rfl
@[simp] theorem finishCommand_modifierKeys (r : Result) : (finishCommand r s).modifierKeys = s.modifierKeys := rfl
@[simp] theorem finishCommand_keyboardKeys (r : Result) : (finishCommand r s).keyboardKeys = s.keyboardKeys := rfl
@[simp] theorem finishCommand_protocol (r : Result) : (finishCommand r s).protocol = s.protocol := rfl
@[simp] theorem finishCommand_idleConfig (r : Result) : (finishCommand r s).idleConfig = s.idleConfig := rfl
@[simp] theorem finishCommand_idleCount (r : Result) : (finishCommand r s).idleCount = s.idleCount := rfl
@[simp] theorem finishCommand_sofDiv (r : Result) : (finishCommand r s).sofDiv = s.sofDiv := rfl
@[simp] theorem finishCommand_ctlPhase (r : Result) : (finishCommand r s).ctlPhase = s.ctlPhase := rfl
@[simp] theorem finishCommand_sendPhase (r : Result) : (finishCommand r s).sendPhase = s.sendPhase := rfl
@[simp] theorem finishCommand_setupPkt (r : Result) : (finishCommand r s).setupPkt = s.setupPkt := rfl
@[simp] theorem finishCommand_ep0Cfg (r : Result) : (finishCommand r s).ep0Cfg = s.ep0Cfg := rfl
@[simp] theorem finishCommand_kbCfg (r : Result) : (finishCommand r s).kbCfg = s.kbCfg := rfl
@[simp] theorem finishCommand_ep0Stall (r : Result) : (finishCommand r s).ep0Stall = s.ep0Stall := rfl
@[simp] theorem finishCommand_devAddr (r : Result) : (finishCommand r s).devAddr = s.devAddr := rfl
@[simp] theorem finishCommand_addrEn (r : Result) : (finishCommand r s).addrEn = s.addrEn := rfl
@[simp] theorem finishCommand_padRegOn (r : Result) : (finishCommand r s).padRegOn = s.padRegOn := rfl
@[simp] theorem finishCommand_pllOn (r : Result) : (finishCommand r s).pllOn = s.pllOn := rfl
@[simp] theorem finishCommand_usbOn (r : Result) : (finishCommand r s).usbOn = s.usbOn := rfl
@[simp] theorem finishCommand_giEnEorst (r : Result) : (finishCommand r s).giEnEorst = s.giEnEorst := rfl
@[simp] theorem finishCommand_giEnSof (r : Result) : (finishCommand r s).giEnSof = s.giEnSof := rfl
@[simp] theorem finishCommand_attached (r : Result) : (finishCommand r s).attached = s.attached := rfl
@[simp] theorem finishCommand_intEnable (r : Result) : (finishCommand r s).intEnable = s.intEnable := rfl
@[simp] theorem finishCommand_inHandler (r : Result) : (finishCommand r s).inHandler = s.inHandler := rfl
@[simp] theorem finishCommand_pendTick (r : Result) : (finishCommand r s).pendTick = s.pendTick := rfl
@[simp] theorem finishCommand_pendGen (r : Result) : (finishCommand r s).pendGen = s.pendGen := rfl
@[simp] theorem finishCommand_pendEp (r : Result) : (finishCommand r s).pendEp = s.pendEp := rfl
@[simp] theorem finishCommand_causeEorst (r : Result) : (finishCommand r s).causeEorst = s.causeEorst := rfl
@[simp] theorem finishCommand_causeSof (r : Result) : (finishCommand r s).causeSof = s.causeSof := rfl
@[simp] theorem finishCommand_txLog (r : Result) : (finishCommand r s).txLog = s.txLog := rfl
@[simp] theorem finishCommand_results (r : Result) : (finishCommand r s).results = s.results ++ [r] := rfl
@[simp] theorem finishCommand_sw (r : Result) : (finishCommand r s).sw = s.sw := rfl
@[simp] theorem finishCommand_pllLocked (r : Result) : (finishCommand r s).pllLocked = s.pllLocked := rfl
@[simp] theorem finishCommand_ep0Rxstp (r : Result) : (finishCommand r s).ep0Rxstp = s.ep0Rxstp := rfl
@[simp] theorem finishCommand_ep0Rxout (r : Result) : (finishCommand r s).ep0Rxout = s.ep0Rxout := rfl
@[simp] theorem finishCommand_ep0Txini (r : Result) : (finishCommand r s).ep0Txini = s.ep0Txini := rfl
@[simp] theorem finishCommand_kbRwal (r : Result) : (finishCommand r s).kbRwal = s.kbRwal := rfl
@[simp] theorem finishCommand_frameNum (r : Result) : (finishCommand r s).frameNum = s.frameNum := rfl
@[simp] theorem finishCommand_ep0Rx (r : Result) : (finishCommand r s).ep0Rx = s.ep0Rx := rfl
@[simp] theorem finishCommand_ep0Tx (r : Result) : (finishCommand r s).ep0Tx = s.ep0Tx := rfl
@[simp] theorem finishCommand_kbTx (r : Result) : (finishCommand r s).kbTx = s.kbTx := rfl
@[simp] theorem finishCommand_ep0Banks (r : Result) : (finishCommand r s).ep0Banks = s.ep0Banks := rfl
@[simp] theorem finishCommand_kbBanks (r : Result) : (finishCommand r s).kbBanks = s.kbBanks := rfl
@[simp] theorem finishCommand_fg (r : Result) : (finishCommand r s).fg = .idle := rfl
@[simp] theorem finishCommand_sched (r : Result) : (finishCommand r s).sched = s.sched := rfl
@[simp] theorem finishCommand_draws (r : Result) : (finishCommand r s).draws = s.draws := rfl

/-! ### enterHandler .tick s -/

@[simp] theorem enterHandler_tick_cfg : (enterHandler .tick s).cfg = s.cfg := rfl
@[simp] theorem enterHandler_tick_keyMask : (enterHandler .tick s).keyMask = s.keyMask := rfl
@[simp] theorem enterHandler_tick_kpCell : (enterHandler .tick s).kpCell = s.kpCell := rfl
@[simp] theorem enterHandler_tick_kpOverrun : (enterHandler .tick s).kpOverrun = s.kpOverrun := rfl
@[simp] theorem enterHandler_tick_configuration : (enterHandler .tick s).configuration = s.configuration := rfl
@[simp] theorem enterHandler_tick_modifierKeys : (enterHandler .tick s).modifierKeys = s.modifierKeys := rfl
@[simp] theorem enterHandler_tick_keyboardKeys : (enterHandler .tick s).keyboardKeys = s.keyboardKeys := rfl
@[simp] theorem enterHandler_tick_protocol : (enterHandler .tick s).protocol = s.protocol := rfl
@[simp] theorem enterHandler_tick_idleConfig : (enterHandler .tick s).idleConfig = s.idleConfig := rfl
@[simp] theorem enterHandler_tick_idleCount : (enterHandler .tick s).idleCount = s.idleCount := rfl
@[simp] theorem enterHandler_tick_sofDiv : (enterHandler .tick s).sofDiv = s.sofDiv := rfl
@[simp] theorem enterHandler_tick_ctlPhase : (enterHandler .tick s).ctlPhase = s.ctlPhase := rfl
@[simp] theorem enterHandler_tick_sendPhase : (enterHandler .tick s).sendPhase = s.sendPhase := rfl
@[simp] theorem enterHandler_tick_setupPkt : (enterHandler .tick s).setupPkt = s.setupPkt := rfl
@[simp] theorem enterHandler_tick_ep0Cfg : (enterHandler .tick s).ep0Cfg = s.ep0Cfg := rfl
@[simp] theorem enterHandler_tick_kbCfg : (enterHandler .tick s).kbCfg = s.kbCfg := rfl
@[simp] theorem enterHandler_tick_ep0Stall : (enterHandler .tick s).ep0Stall = s.ep0Stall := rfl
@[simp] theorem enterHandler_tick_devAddr : (enterHandler .tick s).devAddr = s.devAddr := rfl
@[simp] theorem enterHandler_tick_addrEn : (enterHandler .tick s).addrEn = s.addrEn := rfl
@[simp] theorem enterHandler_tick_padRegOn : (enterHandler .tick s).padRegOn = s.padRegOn := rfl
@[simp] theorem enterHandler_tick_pllOn : (enterHandler .tick s).pllOn = s.pllOn := rfl
@[simp] theorem enterHandler_tick_usbOn : (enterHandler .tick s).usbOn = s.usbOn := rfl
@[simp] theorem enterHandler_tick_giEnEorst : (enterHandler .tick s).giEnEorst = s.giEnEorst := rfl
@[simp] theorem enterHandler_tick_giEnSof : (enterHandler .tick s).giEnSof = s.giEnSof := rfl
@[simp] theorem enterHandler_tick_attached : (enterHandler .tick s).attached = s.attached := rfl
@[simp] theorem enterHandler_tick_intEnable : (enterHandler .tick s).intEnable = s.intEnable := rfl
@[simp] theorem enterHandler_tick_inHandler : (enterHandler .tick s).inHandler = true := rfl
@[simp] theorem enterHandler_tick_pendTick : (enterHandler .tick s).pendTick = false := rfl
@[simp] theorem enterHandler_tick_pendGen : (enterHandler .tick s).pendGen = s.pendGen := rfl
@[simp] theorem enterHandler_tick_pendEp : (enterHandler .tick s).pendEp = s.pendEp := rfl
@[simp] theorem enterHandler_tick_causeEorst : (enterHandler .tick s).causeEorst = s.causeEorst := rfl
@[simp] theorem enterHandler_tick_causeSof : (enterHandler .tick s).causeSof = s.causeSof := rfl
@[simp] theorem enterHandler_tick_txLog : (enterHandler .tick s).txLog = s.txLog := rfl
@[simp] theorem enterHandler_tick_results : (enterHandler .tick s).results = s.results := rfl
@[simp] theorem enterHandler_tick_sw : (enterHandler .tick s).sw = s.sw := rfl
@[simp] theorem enterHandler_tick_pllLocked : (enterHandler .tick s).pllLocked = s.pllLocked := rfl
@[simp] theorem enterHandler_tick_ep0Rxstp : (enterHandler .tick s).ep0Rxstp = s.ep0Rxstp := rfl
@[simp] theorem enterHandler_tick_ep0Rxout : (enterHandler .tick s).ep0Rxout = s.ep0Rxout := rfl
@[simp] theorem enterHandler_tick_ep0Txini : (enterHandler .tick s).ep0Txini = s.ep0Txini := rfl
@[simp] theorem enterHandler_tick_kbRwal : (enterHandler .tick s).kbRwal = s.kbRwal := rfl
@[simp] theorem enterHandler_tick_frameNum : (enterHandler .tick s).frameNum = s.frameNum := rfl
@[simp] theorem enterHandler_tick_ep0Rx : (enterHandler .tick s).ep0Rx = s.ep0Rx := rfl
@[simp] theorem enterHandler_tick_ep0Tx : (enterHandler .tick s).ep0Tx = s.ep0Tx := rfl
@[simp] theorem enterHandler_tick_kbTx : (enterHandler .tick s).kbTx = s.kbTx := rfl
@[simp] theorem enterHandler_tick_ep0Banks : (enterHandler .tick s).ep0Banks = s.ep0Banks := rfl
@[simp] theorem enterHandler_tick_kbBanks : (enterHandler .tick s).kbBanks = s.kbBanks := rfl
@[simp] theorem enterHandler_tick_fg : (enterHandler .tick s).fg = s.fg := rfl
@[simp] theorem enterHandler_tick_sched : (enterHandler .tick s).sched = s.sched := rfl
@[simp] theorem enterHandler_tick_draws : (enterHandler .tick s).draws = s.draws := rfl

/-! ### enterHandler .gen s -/

@[simp] theorem enterHandler_gen_cfg : (enterHandler .gen s).cfg = s.cfg := rfl
@[simp] theorem enterHandler_gen_keyMask : (enterHandler .gen s).keyMask = s.keyMask := rfl
@[simp] theorem enterHandler_gen_kpCell : (enterHandler .gen s).kpCell = s.kpCell := rfl
@[simp] theorem enterHandler_gen_kpOverrun : (enterHandler .gen s).kpOverrun = s.kpOverrun := rfl
@[simp] theorem enterHandler_gen_configuration : (enterHandler .gen s).configuration = s.configuration := rfl
@[simp] theorem enterHandler_gen_modifierKeys : (enterHandler .gen s).modifierKeys = s.modifierKeys := rfl
@[simp] theorem enterHandler_gen_keyboardKeys : (enterHandler .gen s).keyboardKeys = s.keyboardKeys := rfl
@[simp] theorem enterHandler_gen_protocol : (enterHandler .gen s).protocol = s.protocol := rfl
@[simp] theorem enterHandler_gen_idleConfig : (enterHandler .gen s).idleConfig = s.idleConfig := rfl
@[simp] theorem enterHandler_gen_idleCount : (enterHandler .gen s).idleCount = s.idleCount := rfl
@[simp] theorem enterHandler_gen_sofDiv : (enterHandler .gen s).sofDiv = s.sofDiv := rfl
@[simp] theorem enterHandler_gen_ctlPhase : (enterHandler .gen s).ctlPhase = s.ctlPhase := rfl
@[simp] theorem enterHandler_gen_sendPhase : (enterHandler .gen s).sendPhase = s.sendPhase := rfl
@[simp] theorem enterHandler_gen_setupPkt : (enterHandler .gen s).setupPkt = s.setupPkt := rfl
@[simp] theorem enterHandler_gen_ep0Cfg : (enterHandler .gen s).ep0Cfg = s.ep0Cfg := rfl
@[simp] theorem enterHandler_gen_kbCfg : (enterHandler .gen s).kbCfg = s.kbCfg := rfl
@[simp] theorem enterHandler_gen_ep0Stall : (enterHandler .gen s).ep0Stall = s.ep0Stall := rfl
@[simp] theorem enterHandler_gen_devAddr : (enterHandler .gen s).devAddr = s.devAddr := rfl
@[simp] theorem enterHandler_gen_addrEn : (enterHandler .gen s).addrEn = s.addrEn := rfl
@[simp] theorem enterHandler_gen_padRegOn : (enterHandler .gen s).padRegOn = s.padRegOn := rfl
@[simp] theorem enterHandler_gen_pllOn : (enterHandler .gen s).pllOn = s.pllOn := rfl
@[simp] theorem enterHandler_gen_usbOn : (enterHandler .gen s).usbOn = s.usbOn := rfl
@[simp] theorem enterHandler_gen_giEnEorst : (enterHandler .gen s).giEnEorst = s.giEnEorst := rfl
@[simp] theorem enterHandler_gen_giEnSof : (enterHandler .gen s).giEnSof = s.giEnSof := rfl
@[simp] theorem enterHandler_gen_attached : (enterHandler .gen s).attached = s.attached := rfl
@[simp] theorem enterHandler_gen_intEnable : (enterHandler .gen s).intEnable = s.intEnable := rfl
@[simp] theorem enterHandler_gen_inHandler : (enterHandler .gen s).inHandler = true := rfl
@[simp] theorem enterHandler_gen_pendTick : (enterHandler .gen s).pendTick = s.pendTick := rfl
@[simp] theorem enterHandler_gen_pendGen : (enterHandler .gen s).pendGen = false := rfl
@[simp] theorem enterHandler_gen_pendEp : (enterHandler .gen s).pendEp = s.pendEp := rfl
@[simp] theorem enterHandler_gen_causeEorst : (enterHandler .gen s).causeEorst = false := rfl
@[simp] theorem enterHandler_gen_causeSof : (enterHandler .gen s).causeSof = false := rfl
@[simp] theorem enterHandler_gen_txLog : (enterHandler .gen s).txLog = s.txLog := rfl
@[simp] theorem enterHandler_gen_results : (enterHandler .gen s).results = s.results := rfl
@[simp] theorem enterHandler_gen_sw : (enterHandler .gen s).sw = s.sw := rfl
@[simp] theorem enterHandler_gen_pllLocked : (enterHandler .gen s).pllLocked = s.pllLocked := rfl
@[simp] theorem enterHandler_gen_ep0Rxstp : (enterHandler .gen s).ep0Rxstp = s.ep0Rxstp := rfl
@[simp] theorem enterHandler_gen_ep0Rxout : (enterHandler .gen s).ep0Rxout = s.ep0Rxout := rfl
@[simp] theorem enterHandler_gen_ep0Txini : (enterHandler .gen s).ep0Txini = s.ep0Txini := rfl
@[simp] theorem enterHandler_gen_kbRwal : (enterHandler .gen s).kbRwal = s.kbRwal := rfl
@[simp] theorem enterHandler_gen_frameNum : (enterHandler .gen s).frameNum = s.frameNum := rfl
@[simp] theorem enterHandler_gen_ep0Rx : (enterHandler .gen s).ep0Rx = s.ep0Rx := rfl
@[simp] theorem enterHandler_gen_ep0Tx : (enterHandler .gen s).ep0Tx = s.ep0Tx := rfl
@[simp] theorem enterHandler_gen_kbTx : (enterHandler .gen s).kbTx = s.kbTx := rfl
@[simp] theorem enterHandler_gen_ep0Banks : (enterHandler .gen s).ep0Banks = s.ep0Banks := rfl
@[simp] theorem enterHandler_gen_kbBanks : (enterHandler .gen s).kbBanks = s.kbBanks := rfl
@[simp] theorem enterHandler_gen_fg : (enterHandler .gen s).fg = s.fg := rfl
@[simp] theorem enterHandler_gen_sched : (enterHandler .gen s).sched = s.sched := rfl
@[simp] theorem enterHandler_gen_draws : (enterHandler .gen s).draws = s.draws := rfl

/-! ### enterHandler .ep s -/

@[simp] theorem enterHandler_ep_cfg : (enterHandler .ep s).cfg = s.cfg := rfl
@[simp] theorem enterHandler_ep_keyMask : (enterHandler .ep s).keyMask = s.keyMask := rfl
@[simp] theorem enterHandler_ep_kpCell : (enterHandler .ep s).kpCell = s.kpCell := rfl
@[simp] theorem enterHandler_ep_kpOverrun : (enterHandler .ep s).kpOverrun = s.kpOverrun := rfl
@[simp] theorem enterHandler_ep_configuration : (enterHandler .ep s).configuration = s.configuration := rfl
@[simp] theorem enterHandler_ep_modifierKeys : (enterHandler .ep s).modifierKeys = s.modifierKeys := rfl
@[simp] theorem enterHandler_ep_keyboardKeys : (enterHandler .ep s).keyboardKeys = s.keyboardKeys := rfl
@[simp] theorem enterHandler_ep_protocol : (enterHandler .ep s).protocol = s.protocol := rfl
@[simp] theorem enterHandler_ep_idleConfig : (enterHandler .ep s).idleConfig = s.idleConfig := rfl
@[simp] theorem enterHandler_ep_idleCount : (enterHandler .ep s).idleCount = s.idleCount := rfl
@[simp] theorem enterHandler_ep_sofDiv : (enterHandler .ep s).sofDiv = s.sofDiv := rfl
@[simp] theorem enterHandler_ep_ctlPhase : (enterHandler .ep s).ctlPhase = s.ctlPhase := rfl
@[simp] theorem enterHandler_ep_sendPhase : (enterHandler .ep s).sendPhase = s.sendPhase := rfl
@[simp] theorem enterHandler_ep_setupPkt : (enterHandler .ep s).setupPkt = s.setupPkt := rfl
@[simp] theorem enterHandler_ep_ep0Cfg : (enterHandler .ep s).ep0Cfg = s.ep0Cfg := rfl
@[simp] theorem enterHandler_ep_kbCfg : (enterHandler .ep s).kbCfg = s.kbCfg := rfl
@[simp] theorem enterHandler_ep_ep0Stall : (enterHandler .ep s).ep0Stall = s.ep0Stall := rfl
@[simp] theorem enterHandler_ep_devAddr : (enterHandler .ep s).devAddr = s.devAddr := rfl
@[simp] theorem enterHandler_ep_addrEn : (enterHandler .ep s).addrEn = s.addrEn := rfl
@[simp] theorem enterHandler_ep_padRegOn : (enterHandler .ep s).padRegOn = s.padRegOn := rfl
@[simp] theorem enterHandler_ep_pllOn : (enterHandler .ep s).pllOn = s.pllOn := rfl
@[simp] theorem enterHandler_ep_usbOn : (enterHandler .ep s).usbOn = s.usbOn := rfl
@[simp] theorem enterHandler_ep_giEnEorst : (enterHandler .ep s).giEnEorst = s.giEnEorst := rfl
@[simp] theorem enterHandler_ep_giEnSof : (enterHandler .ep s).giEnSof = s.giEnSof := rfl
@[simp] theorem enterHandler_ep_attached : (enterHandler .ep s).attached = s.attached := rfl
@[simp] theorem enterHandler_ep_intEnable : (enterHandler .ep s).intEnable = s.intEnable := rfl
@[simp] theorem enterHandler_ep_inHandler : (enterHandler .ep s).inHandler = true := rfl
@[simp] theorem enterHandler_ep_pendTick : (enterHandler .ep s).pendTick = s.pendTick := rfl
@[simp] theorem enterHandler_ep_pendGen : (enterHandler .ep s).pendGen = s.pendGen := rfl
@[simp] theorem enterHandler_ep_pendEp : (enterHandler .ep s).pendEp = false := rfl
@[simp] theorem enterHandler_ep_causeEorst : (enterHandler .ep s).causeEorst = s.causeEorst := rfl
@[simp] theorem enterHandler_ep_causeSof : (enterHandler .ep s).causeSof = s.causeSof := rfl
@[simp] theorem enterHandler_ep_txLog : (enterHandler .ep s).txLog = s.txLog := rfl
@[simp] theorem enterHandler_ep_results : (enterHandler .ep s).results = s.results := rfl
@[simp] theorem enterHandler_ep_sw : (enterHandler .ep s).sw = s.sw := rfl
@[simp] theorem enterHandler_ep_pllLocked : (enterHandler .ep s).pllLocked = s.pllLocked := rfl
@[simp] theorem enterHandler_ep_ep0Rxstp : (enterHandler .ep s).ep0Rxstp = s.ep0Rxstp := rfl
@[simp] theorem enterHandler_ep_ep0Rxout : (enterHandler .ep s).ep0Rxout = s.ep0Rxout := rfl
@[simp] theorem enterHandler_ep_ep0Txini : (enterHandler .ep s).ep0Txini = s.ep0Txini := rfl
@[simp] theorem enterHandler_ep_kbRwal : (enterHandler .ep s).kbRwal = s.kbRwal := rfl
@[simp] theorem enterHandler_ep_frameNum : (enterHandler .ep s).frameNum = s.frameNum := rfl
@[simp] theorem enterHandler_ep_ep0Rx : (enterHandler .ep s).ep0Rx = s.ep0Rx := rfl
@[simp] theorem enterHandler_ep_ep0Tx : (enterHandler .ep s).ep0Tx = s.ep0Tx := rfl
@[simp] theorem enterHandler_ep_kbTx : (enterHandler .ep s).kbTx = s.kbTx := rfl
@[simp] theorem enterHandler_ep_ep0Banks : (enterHandler .ep s).ep0Banks = s.ep0Banks := rfl
@[simp] theorem enterHandler_ep_kbBanks : (enterHandler .ep s).kbBanks = s.kbBanks := rfl
@[simp] theorem enterHandler_ep_fg : (enterHandler .ep s).fg = s.fg := rfl
@[simp] theorem enterHandler_ep_sched : (enterHandler .ep s).sched = s.sched := rfl
@[simp] theorem enterHandler_ep_draws : (enterHandler .ep s).draws = s.draws := rfl

/-! ### leaveHandler s -/

@[simp] theorem leaveHandler_cfg : (leaveHandler s).cfg = s.cfg := rfl
@[simp] theorem leaveHandler_keyMask : (leaveHandler s).keyMask = s.keyMask := rfl
@[simp] theorem leaveHandler_kpCell : (leaveHandler s).kpCell = s.kpCell := rfl
@[simp] theorem leaveHandler_kpOverrun : (leaveHandler s).kpOverrun = s.kpOverrun := rfl
@[simp] theorem leaveHandler_configuration : (leaveHandler s).configuration = s.configuration := rfl
@[simp] theorem leaveHandler_modifierKeys : (leaveHandler s).modifierKeys = s.modifierKeys := rfl
@[simp] theorem leaveHandler_keyboardKeys : (leaveHandler s).keyboardKeys = s.keyboardKeys := rfl
@[simp] theorem leaveHandler_protocol : (leaveHandler s).protocol = s.protocol := rfl
@[simp] theorem leaveHandler_idleConfig : (leaveHandler s).idleConfig = s.idleConfig := rfl
@[simp] theorem leaveHandler_idleCount : (leaveHandler s).idleCount = s.idleCount := rfl
@[simp] theorem leaveHandler_sofDiv : (leaveHandler s).sofDiv = s.sofDiv := rfl
@[simp] theorem leaveHandler_ctlPhase : (leaveHandler s).ctlPhase = s.ctlPhase := rfl
@[simp] theorem leaveHandler_sendPhase : (leaveHandler s).sendPhase = s.sendPhase := rfl
@[simp] theorem leaveHandler_setupPkt : (leaveHandler s).setupPkt = s.setupPkt := rfl
@[simp] theorem leaveHandler_ep0Cfg : (leaveHandler s).ep0Cfg = s.ep0Cfg := rfl
@[simp] theorem leaveHandler_kbCfg : (leaveHandler s).kbCfg = s.kbCfg := rfl
@[simp] theorem leaveHandler_ep0Stall : (leaveHandler s).ep0Stall = s.ep0Stall := rfl
@[simp] theorem leaveHandler_devAddr : (leaveHandler s).devAddr = s.devAddr := rfl
@[simp] theorem leaveHandler_addrEn : (leaveHandler s).addrEn = s.addrEn := rfl
@[simp] theorem leaveHandler_padRegOn : (leaveHandler s).padRegOn = s.padRegOn := rfl
@[simp] theorem leaveHandler_pllOn : (leaveHandler s).pllOn = s.pllOn := rfl
@[simp] theorem leaveHandler_usbOn : (leaveHandler s).usbOn = s.usbOn := rfl
@[simp] theorem leaveHandler_giEnEorst : (leaveHandler s).giEnEorst = s.giEnEorst := rfl
@[simp] theorem leaveHandler_giEnSof : (leaveHandler s).giEnSof = s.giEnSof := rfl
@[simp] theorem leaveHandler_attached : (leaveHandler s).attached = s.attached := rfl
@[simp] theorem leaveHandler_intEnable : (leaveHandler s).intEnable = s.intEnable := rfl
@[simp] theorem leaveHandler_inHandler : (leaveHandler s).inHandler = false := rfl
@[simp] theorem leaveHandler_pendTick : (leaveHandler s).pendTick = s.pendTick := rfl
@[simp] theorem leaveHandler_pendGen : (leaveHandler s).pendGen = s.pendGen := rfl
@[simp] theorem leaveHandler_pendEp : (leaveHandler s).pendEp = s.pendEp := rfl
@[simp] theorem leaveHandler_causeEorst : (leaveHandler s).causeEorst = s.causeEorst := rfl
@[simp] theorem leaveHandler_causeSof : (leaveHandler s).causeSof = s.causeSof := rfl
@[simp] theorem leaveHandler_txLog : (leaveHandler s).txLog = s.txLog := rfl
@[simp] theorem leaveHandler_results : (leaveHandler s).results = s.results := rfl
@[simp] theorem leaveHandler_sw : (leaveHandler s).sw = s.sw := rfl
@[simp] theorem leaveHandler_pllLocked : (leaveHandler s).pllLocked = s.pllLocked := rfl
@[simp] theorem leaveHandler_ep0Rxstp : (leaveHandler s).ep0Rxstp = s.ep0Rxstp := rfl
@[simp] theorem leaveHandler_ep0Rxout : (leaveHandler s).ep0Rxout = s.ep0Rxout := rfl
@[simp] theorem leaveHandler_ep0Txini : (leaveHandler s).ep0Txini = s.ep0Txini := rfl
@[simp] theorem leaveHandler_kbRwal : (leaveHandler s).kbRwal = s.kbRwal := rfl
@[simp] theorem leaveHandler_frameNum : (leaveHandler s).frameNum = s.frameNum := rfl
@[simp] theorem leaveHandler_ep0Rx : (leaveHandler s).ep0Rx = s.ep0Rx := rfl
@[simp] theorem leaveHandler_ep0Tx : (leaveHandler s).ep0Tx = s.ep0Tx := rfl
@[simp] theorem leaveHandler_kbTx : (leaveHandler s).kbTx = s.kbTx := rfl
@[simp] theorem leaveHandler_ep0Banks : (leaveHandler s).ep0Banks = s.ep0Banks := rfl
@[simp] theorem leaveHandler_kbBanks : (leaveHandler s).kbBanks = s.kbBanks := rfl
@[simp] theorem leaveHandler_fg : (leaveHandler s).fg = s.fg := rfl
@[simp] theorem leaveHandler_sched : (leaveHandler s).sched = s.sched := rfl
@[simp] theorem leaveHandler_draws : (leaveHandler s).draws = s.draws := rfl

/-! ### openWindow s -/

@[simp] theorem openWindow_cfg : (openWindow s).cfg = s.cfg := rfl
@[simp] theorem openWindow_keyMask : (openWindow s).keyMask = s.keyMask := rfl
@[simp] theorem openWindow_kpCell : (openWindow s).kpCell = s.kpCell := rfl
@[simp] theorem openWindow_kpOverrun : (openWindow s).kpOverrun = s.kpOverrun := rfl
@[simp] theorem openWindow_configuration : (openWindow s).configuration = s.configuration := rfl
@[simp] theorem openWindow_modifierKeys : (openWindow s).modifierKeys = s.modifierKeys := rfl
@[simp] theorem openWindow_keyboardKeys : (openWindow s).keyboardKeys = s.keyboardKeys := rfl
@[simp] theorem openWindow_protocol : (openWindow s).protocol = s.protocol := rfl
@[simp] theorem openWindow_idleConfig : (openWindow s).idleConfig = s.idleConfig := rfl
@[simp] theorem openWindow_idleCount : (openWindow s).idleCount = s.idleCount := rfl
@[simp] theorem openWindow_sofDiv : (openWindow s).sofDiv = s.sofDiv := rfl
@[simp] theorem openWindow_ctlPhase : (openWindow s).ctlPhase = s.ctlPhase := rfl
@[simp] theorem openWindow_sendPhase : (openWindow s).sendPhase = s.sendPhase := rfl
@[simp] theorem openWindow_setupPkt : (openWindow s).setupPkt = s.setupPkt := rfl
@[simp] theorem openWindow_ep0Cfg : (openWindow s).ep0Cfg = s.ep0Cfg := rfl
@[simp] theorem openWindow_kbCfg : (openWindow s).kbCfg = s.kbCfg := rfl
@[simp] theorem openWindow_ep0Stall : (openWindow s).ep0Stall = s.ep0Stall := rfl
@[simp] theorem openWindow_devAddr : (openWindow s).devAddr = s.devAddr := rfl
@[simp] theorem openWindow_addrEn : (openWindow s).addrEn = s.addrEn := rfl
@[simp] theorem openWindow_padRegOn : (openWindow s).padRegOn = s.padRegOn := rfl
@[simp] theorem openWindow_pllOn : (openWindow s).pllOn = s.pllOn := rfl
@[simp] theorem openWindow_usbOn : (openWindow s).usbOn = s.usbOn := rfl
@[simp] theorem openWindow_giEnEorst : (openWindow s).giEnEorst = s.giEnEorst := rfl
@[simp] theorem openWindow_giEnSof : (openWindow s).giEnSof = s.giEnSof := rfl
@[simp] theorem openWindow_attached : (openWindow s).attached = s.attached := rfl
@[simp] theorem openWindow_intEnable : (openWindow s).intEnable = false := rfl
@[simp] theorem openWindow_inHandler : (openWindow s).inHandler = s.inHandler := rfl
@[simp] theorem openWindow_pendTick : (openWindow s).pendTick = s.pendTick := rfl
@[simp] theorem openWindow_pendGen : (openWindow s).pendGen = s.pendGen := rfl
@[simp] theorem openWindow_pendEp : (openWindow s).pendEp = s.pendEp := rfl
@[simp] theorem openWindow_causeEorst : (openWindow s).causeEorst = s.causeEorst := rfl
@[simp] theorem openWindow_causeSof : (openWindow s).causeSof = s.causeSof := rfl
@[simp] theorem openWindow_txLog : (openWindow s).txLog = s.txLog := rfl
@[simp] theorem openWindow_results : (openWindow s).results = s.results := rfl
@[simp] theorem openWindow_sw : (openWindow s).sw = s.sw := rfl
@[simp] theorem openWindow_pllLocked : (openWindow s).pllLocked = s.pllLocked := rfl
@[simp] theorem openWindow_ep0Rxstp : (openWindow s).ep0Rxstp = s.ep0Rxstp := rfl
@[simp] theorem openWindow_ep0Rxout : (openWindow s).ep0Rxout = s.ep0Rxout := rfl
@[simp] theorem openWindow_ep0Txini : (openWindow s).ep0Txini = s.ep0Txini := rfl
@[simp] theorem openWindow_kbRwal : (openWindow s).kbRwal = s.kbRwal := rfl
@[simp] theorem openWindow_frameNum : (openWindow s).frameNum = s.frameNum := rfl
@[simp] theorem openWindow_ep0Rx : (openWindow s).ep0Rx = s.ep0Rx := rfl
@[simp] theorem openWindow_ep0Tx : (openWindow s).ep0Tx = s.ep0Tx := rfl
@[simp] theorem openWindow_kbTx : (openWindow s).kbTx = s.kbTx := rfl
@[simp] theorem openWindow_ep0Banks : (openWindow s).ep0Banks = s.ep0Banks := rfl
@[simp] theorem openWindow_kbBanks : (openWindow s).kbBanks = s.kbBanks := rfl
@[simp] theorem openWindow_fg : (openWindow s).fg = s.fg := rfl
@[simp] theorem openWindow_sched : (openWindow s).sched = s.sched := rfl
@[simp] theorem openWindow_draws : (openWindow s).draws = s.draws := rfl

/-! ### closeWindow b s -/

@[simp] theorem closeWindow_cfg (b : Bool) : (closeWindow b s).cfg = s.cfg := rfl
@[simp] theorem closeWindow_keyMask (b : Bool) : (closeWindow b s).keyMask = s.keyMask := rfl
@[simp] theorem closeWindow_kpCell (b : Bool) : (closeWindow b s).kpCell = s.kpCell := rfl
@[simp] theorem closeWindow_kpOverrun (b : Bool) : (closeWindow b s).kpOverrun = s.kpOverrun := rfl
@[simp] theorem closeWindow_configuration (b : Bool) : (closeWindow b s).configuration = s.configuration := rfl
@[simp] theorem closeWindow_modifierKeys (b : Bool) : (closeWindow b s).modifierKeys = s.modifierKeys := rfl
@[simp] theorem closeWindow_keyboardKeys (b : Bool) : (closeWindow b s).keyboardKeys = s.keyboardKeys := rfl
@[simp] theorem closeWindow_protocol (b : Bool) : (closeWindow b s).protocol = s.protocol := rfl
@[simp] theorem closeWindow_idleConfig (b : Bool) : (closeWindow b s).idleConfig = s.idleConfig := rfl
@[simp] theorem closeWindow_idleCount (b : Bool) : (closeWindow b s).idleCount = s.idleCount := rfl
@[simp] theorem closeWindow_sofDiv (b : Bool) : (closeWindow b s).sofDiv = s.sofDiv := rfl
@[simp] theorem closeWindow_ctlPhase (b : Bool) : (closeWindow b s).ctlPhase = s.ctlPhase := rfl
@[simp] theorem closeWindow_sendPhase (b : Bool) : (closeWindow b s).sendPhase = s.sendPhase := rfl
@[simp] theorem closeWindow_setupPkt (b : Bool) : (closeWindow b s).setupPkt = s.setupPkt := rfl
@[simp] theorem closeWindow_ep0Cfg (b : Bool) : (closeWindow b s).ep0Cfg = s.ep0Cfg := rfl
@[simp] theorem closeWindow_kbCfg (b : Bool) : (closeWindow b s).kbCfg = s.kbCfg := rfl
@[simp] theorem closeWindow_ep0Stall (b : Bool) : (closeWindow b s).ep0Stall = s.ep0Stall := rfl
@[simp] theorem closeWindow_devAddr (b : Bool) : (closeWindow b s).devAddr = s.devAddr := rfl
@[simp] theorem closeWindow_addrEn (b : Bool) : (closeWindow b s).addrEn = s.addrEn := rfl
@[simp] theorem closeWindow_padRegOn (b : Bool) : (closeWindow b s).padRegOn = s.padRegOn := rfl
@[simp] theorem closeWindow_pllOn (b : Bool) : (closeWindow b s).pllOn = s.pllOn := rfl
@[simp] theorem closeWindow_usbOn (b : Bool) : (closeWindow b s).usbOn = s.usbOn := rfl
@[simp] theorem closeWindow_giEnEorst (b : Bool) : (closeWindow b s).giEnEorst = s.giEnEorst := rfl
@[simp] theorem closeWindow_giEnSof (b : Bool) : (closeWindow b s).giEnSof = s.giEnSof := rfl
@[simp] theorem closeWindow_attached (b : Bool) : (closeWindow b s).attached = s.attached := rfl
@[simp] theorem closeWindow_intEnable (b : Bool) : (closeWindow b s).intEnable = b := rfl
@[simp] theorem closeWindow_inHandler (b : Bool) : (closeWindow b s).inHandler = s.inHandler := rfl
@[simp] theorem closeWindow_pendTick (b : Bool) : (closeWindow b s).pendTick = s.pendTick := rfl
@[simp] theorem closeWindow_pendGen (b : Bool) : (closeWindow b s).pendGen = s.pendGen := rfl
@[simp] theorem closeWindow_pendEp (b : Bool) : (closeWindow b s).pendEp = s.pendEp := rfl
@[simp] theorem closeWindow_causeEorst (b : Bool) : (closeWindow b s).causeEorst = s.causeEorst := rfl
@[simp] theorem closeWindow_causeSof (b : Bool) : (closeWindow b s).causeSof = s.causeSof := rfl
@[simp] theorem closeWindow_txLog (b : Bool) : (closeWindow b s).txLog = s.txLog := rfl
@[simp] theorem closeWindow_results (b : Bool) : (closeWindow b s).results = s.results := rfl
@[simp] theorem closeWindow_sw (b : Bool) : (closeWindow b s).sw = s.sw := rfl
@[simp] theorem closeWindow_pllLocked (b : Bool) : (closeWindow b s).pllLocked = s.pllLocked := rfl
@[simp] theorem closeWindow_ep0Rxstp (b : Bool) : (closeWindow b s).ep0Rxstp = s.ep0Rxstp := rfl
@[simp] theorem closeWindow_ep0Rxout (b : Bool) : (closeWindow b s).ep0Rxout = s.ep0Rxout := rfl
@[simp] theorem closeWindow_ep0Txini (b : Bool) : (closeWindow b s).ep0Txini = s.ep0Txini := rfl
@[simp] theorem closeWindow_kbRwal (b : Bool) : (closeWindow b s).kbRwal = s.kbRwal := rfl
@[simp] theorem closeWindow_frameNum (b : Bool) : (closeWindow b s).frameNum = s.frameNum := rfl
@[simp] theorem closeWindow_ep0Rx (b : Bool) : (closeWindow b s).ep0Rx = s.ep0Rx := rfl
@[simp] theorem closeWindow_ep0Tx (b : Bool) : (closeWindow b s).ep0Tx = s.ep0Tx := rfl
@[simp] theorem closeWindow_kbTx (b : Bool) : (closeWindow b s).kbTx = s.kbTx := rfl
@[simp] theorem closeWindow_ep0Banks (b : Bool) : (closeWindow b s).ep0Banks = s.ep0Banks := rfl
@[simp] theorem closeWindow_kbBanks (b : Bool) : (closeWindow b s).kbBanks = s.kbBanks := rfl
@[simp] theorem closeWindow_fg (b : Bool) : (closeWindow b s).fg = s.fg := rfl
@[simp] theorem closeWindow_sched (b : Bool) : (closeWindow b s).sched = s.sched := rfl
@[simp] theorem closeWindow_draws (b : Bool) : (closeWindow b s).draws = s.draws := rfl

end Sys2Proof.Machine
end

