-- ==== Sys2Proof/Laws/Ops.lean ====
section
/-! SUPPORT. For each shared operation, once, everything it can do. -/

namespace Sys2Proof.Machine

variable (s : State)

/-! ### Banks -/

/-- Marks keep a part of a list, in its order. -/
theorem keepMarked_sublist {α : Type} (marks : List Bool) (xs : List α) :
    (keepMarked marks xs).Sublist xs := by
  induction marks generalizing xs with
  | nil => cases xs <;> exact List.nil_sublist _
  | cons b marks ih =>
    cases xs with
    | nil => cases b <;> exact List.nil_sublist _
    | cons x xs =>
      cases b
      · exact (ih xs).cons x
      · exact (ih xs).cons_cons x

/-- A packet committed while a bank is free stands behind those that are there. -/
theorem fillBank_of_room {banks sent : Nat} {held : List (List Byte)} {packet : List Byte}
    (h : held.length < banks) : fillBank banks sent held packet = held ++ [packet] := by
  simp [fillBank, h]

/-- The banks hold packets that stood there and the new one, in the order of their `EpSend`. -/
theorem fillBank_sublist (banks sent : Nat) (held : List (List Byte)) (packet : List Byte) :
    (fillBank banks sent held packet).Sublist (held ++ [packet]) := by
  unfold fillBank
  split
  · exact List.Sublist.refl _
  · exact (List.take_sublist _ _).trans (keepMarked_sublist _ _)

/-- However many packets are committed, no more stand in the banks than there are banks. -/
theorem fillBank_length_le (banks sent : Nat) (held : List (List Byte)) (packet : List Byte) :
    (fillBank banks sent held packet).length ≤ banks := by
  unfold fillBank
  split
  · simpa using ‹_›
  · simp

/-- What stands in the banks fits them. -/
theorem fillBank_fits {banks size sent : Nat} {held : List (List Byte)} {packet p : List Byte}
    (hh : ∀ q ∈ held, q.length ≤ size) (hp : packet.length ≤ size)
    (h : p ∈ fillBank banks sent held packet) : p.length ≤ size := by
  rcases List.mem_append.1 ((fillBank_sublist banks sent held packet).subset h) with h | h
  · exact hh p h
  · rw [List.mem_singleton.1 h]; exact hp

/-- EP0's bank, empty as `Ep0AckSetup` leaves it, takes the packet. -/
theorem ep0Filled_of_empty (h : s.ep0Banks = []) (packet : List Byte) :
    s.ep0Filled packet = [packet] := by
  simp [State.ep0Filled, fillBank, h]

/-! ### Writing to an endpoint -/

theorem epWriteAll_ep0 (bs : List Byte) :
    epWriteAll .ep0 bs s = { s with ep0Tx := s.ep0Tx ++ bs } := by
  induction bs generalizing s with
  | nil => simp [epWriteAll]
  | cons b bs ih =>
    have h := ih (epWrite .ep0 b s)
    simp only [epWriteAll, List.foldl_cons] at h ⊢
    rw [h]
    simp [epWrite]

theorem epWriteAll_kb (bs : List Byte) :
    epWriteAll .kb bs s = { s with kbTx := s.kbTx ++ bs } := by
  induction bs generalizing s with
  | nil => simp [epWriteAll]
  | cons b bs ih =>
    have h := ih (epWrite .kb b s)
    simp only [epWriteAll, List.foldl_cons] at h ⊢
    rw [h]
    simp [epWrite]

/-- One packet out on EP0: all that `EpWrite` for each byte and `EpSend(0)` change. -/
theorem epSend_epWriteAll_ep0 (bs : List Byte) :
    epSend .ep0 (epWriteAll .ep0 bs s) =
      { s with
        txLog := s.txLog ++ [⟨0, s.ep0Tx ++ bs⟩]
        ep0Banks := s.ep0Filled (s.ep0Tx ++ bs)
        ep0Tx := []
        ep0Txini := false } := by
  rw [epWriteAll_ep0]; rfl

theorem sendStatusZlp_eq :
    sendStatusZlp s =
      { s with
        txLog := s.txLog ++ [⟨0, s.ep0Tx⟩]
        ep0Banks := s.ep0Filled s.ep0Tx
        ep0Tx := []
        ep0Txini := false } := rfl

/-- All that `PushReport()` changes. -/
theorem pushReport_eq :
    pushReport s =
      { s with
        txLog := s.txLog ++ [⟨s.cfg.kbEp, s.kbTx ++ buildReport s⟩]
        kbBanks := s.kbFilled (s.kbTx ++ buildReport s)
        kbTx := []
        kbRwal := false } := by
  rw [pushReport, epWriteAll_kb]; rfl

theorem buildReport_length : (buildReport s).length = Config.reportLen := by
  simp [buildReport, Config.reportLen]

/-! ### Reading the SETUP packet -/

/-- A read changes the FIFO and the draw counter only. -/
theorem ep0Read8_keeps {t : State}
    (h : ∃ rx draws, t = { s with ep0Rx := rx, draws := draws }) :
    ∃ rx draws, (ep0Read8 t).2 = { s with ep0Rx := rx, draws := draws } := by
  obtain ⟨rx, draws, rfl⟩ := h
  unfold ep0Read8
  split <;> exact ⟨_, _, rfl⟩

/-- The eight reads change `setup_pkt`, the FIFO and the draw counter only. -/
theorem readSetup_eq :
    ∃ pkt rx draws, readSetup s = { s with setupPkt := pkt, ep0Rx := rx, draws := draws } := by
  have h0 : ∃ rx draws, s = { s with ep0Rx := rx, draws := draws } := ⟨_, _, rfl⟩
  obtain ⟨rx, draws, h⟩ := ep0Read8_keeps s (ep0Read8_keeps s (ep0Read8_keeps s (ep0Read8_keeps s
    (ep0Read8_keeps s (ep0Read8_keeps s (ep0Read8_keeps s (ep0Read8_keeps s h0)))))))
  unfold readSetup
  simp only [h]
  exact ⟨_, _, _, rfl⟩

/-- With the eight bytes in the FIFO, they are the packet. -/
theorem readSetup_of_bytes {b0 b1 b2 b3 b4 b5 b6 b7 : Byte} {rest : List Byte}
    (h : s.ep0Rx = b0 :: b1 :: b2 :: b3 :: b4 :: b5 :: b6 :: b7 :: rest) :
    readSetup s =
      { s with setupPkt := .ofBytes b0 b1 b2 b3 b4 b5 b6 b7, ep0Rx := rest } := by
  simp [readSetup, ep0Read8, h]

/-! ### The data stage -/

/-- What one poll of a data stage's hold can do. -/
theorem controlDataPoll_cases (data : List Byte) (off len wlen polls : Nat) :
    controlDataPoll data off len wlen polls s = { s with ctlPhase := .idle } ∨
    (∃ p, controlDataPoll data off len wlen polls s =
      { s with ctlPhase := .dataIn data off len wlen p }) ∨
    (∃ phase, (phase = .idle ∨
        (phase = .dataIn data (off + min (len - off) Config.ep0Size) len wlen 0 ∧
          dataStageDone (off + min (len - off) Config.ep0Size) (min (len - off) Config.ep0Size)
            len wlen = false)) ∧
      controlDataPoll data off len wlen polls s =
        { s with
          txLog := s.txLog ++ [⟨0, s.ep0Tx ++ chunk data off len⟩]
          ep0Banks := s.ep0Filled (s.ep0Tx ++ chunk data off len)
          ep0Tx := []
          ep0Txini := false
          ctlPhase := phase }) := by
  unfold controlDataPoll
  rw [epSend_epWriteAll_ep0]
  split
  · exact .inl rfl
  split
  · exact .inl rfl
  split
  · dsimp only
    split
    · exact .inr (.inr ⟨_, .inl rfl, rfl⟩)
    · rename_i h
      exact .inr (.inr ⟨_, .inr ⟨rfl, by simpa using h⟩, rfl⟩)
  · exact .inr (.inl ⟨_, rfl⟩)

theorem chunk_length_le (data : List Byte) (off len : Nat) : (chunk data off len).length ≤ 32 := by
  simp [chunk, Config.ep0Size]

/-- Reading a whole entry of the descriptor ROM gives that entry (R61, R175). -/
theorem memRead_entry {t : DescTable} {key : Half} {bs : List Byte}
    (h : t.entry key = some bs) : memRead t key 0 bs.length = some bs := by
  simp [memRead, h]

end Sys2Proof.Machine
end

