-- ==== Sys2Proof/Laws/Exec.lean ====
section
/-! SUPPORT. For each meaning, once, every next state it can answer with: the lemmas a statement
about an operation cites in place of unfolding its meaning. -/

namespace Sys2Proof.Machine

variable {s t : State}

/-! ### The key decoder -/

theorem execTick_cases {sw : BitVec 3} (h : execTick sw s = .next t) :
    (gestureDone (keyLoop sw s.keyMask) = true ∧
      t = { s with
        keyMask := 0
        kpOverrun := s.kpOverrun || s.cellFull
        kpCell := emittedCell s.cfg.overrunPolicy s.kpCell
          (latchedBits (keyLoop sw s.keyMask)) }) ∨
    (gestureDone (keyLoop sw s.keyMask) = false ∧ t = { s with keyMask := keyLoop sw s.keyMask }) := by
  unfold execTick at h
  dsimp only at h
  split at h <;> cases h
  · exact .inl ⟨‹_›, rfl⟩
  · exact .inr ⟨eq_false_of_ne_true ‹_›, rfl⟩

theorem execKpTake_cases (h : execKpTake s = .next t) :
    s.inHandler = false ∧
      ((s.fg = .idle ∧ t = { s with fg := .kpTake s.kpCell }) ∨
        ∃ v, s.fg = .kpTake v ∧
          t = { s with
            kpCell := if v = 0 then s.kpCell else 0
            fg := .idle
            results := s.results ++ [.kpTake v] }) := by
  unfold execKpTake at h
  split at h
  · cases h
  · refine ⟨eq_false_of_ne_true ‹_›, ?_⟩
    split at h <;> cases h
    · exact .inl ⟨‹_›, rfl⟩
    · exact .inr ⟨_, ‹_›, rfl⟩

/-! ### The interrupts -/

/-- End-of-reset changes EP0's and the keyboard endpoint's configuration, and of HidState either
`configuration` alone or every field. -/
theorem execGiEorst_cases (h : execGiEorst s = .next t) :
    (s.cfg.eorstResetScope = .configurationOnly ∧
      t = { s with
        ep0Cfg := ep0CfgAfterReset
        ep0Stall := false
        kbCfg := { s.kbCfg with enabled := false }
        configuration := 0
        sofDiv := keptSofDiv s }) ∨
    (s.cfg.eorstResetScope = .all ∧
      t = { s with
        ep0Cfg := ep0CfgAfterReset
        ep0Stall := false
        kbCfg := { s.kbCfg with enabled := false }
        configuration := 0
        modifierKeys := 0
        keyboardKeys := Vector.replicate 6 0
        protocol := s.cfg.protocolDefault
        idleConfig := s.cfg.idleDefault
        idleCount := 0
        sofDiv := 0 }) := by
  cases h
  cases hs : s.cfg.eorstResetScope <;> simp [resetHidState, keptSofDiv, ep0Config, hs]

theorem execGiSof_cases (h : execGiSof s = .next t) :
    t = s ∨
    ((s.configuration ≠ 0 ∧ s.idleConfig ≠ 0) ∧
      (t = { s with sofDiv := s.sofDiv + 1 } ∨
        (s.sofDiv + 1 = 0 ∧ s.kbRwal = true ∧ s.idleCount + 1 ≠ s.idleConfig ∧
          t = { s with sofDiv := s.sofDiv + 1, idleCount := s.idleCount + 1 }) ∨
        (s.sofDiv + 1 = 0 ∧ s.kbRwal = true ∧ s.idleCount + 1 = s.idleConfig ∧
          t = { s with
            sofDiv := s.sofDiv + 1
            idleCount := 0
            txLog := s.txLog ++ [⟨s.cfg.kbEp, s.kbTx ++ buildReport s⟩]
            kbBanks := s.kbFilled (s.kbTx ++ buildReport s)
            kbTx := []
            kbRwal := false }))) := by
  unfold execGiSof at h
  split at h
  · rename_i hc
    refine .inr ⟨by simpa [State.configured] using hc, ?_⟩
    dsimp only at h
    split at h
    · rename_i hd
      unfold idleUnit at h
      split at h
      · rw [pushReport_eq] at h
        cases h
        exact .inr (.inr ⟨hd.1, hd.2, ‹_›, rfl⟩)
      · cases h
        exact .inr (.inl ⟨hd.1, hd.2, ‹_›, rfl⟩)
    · cases h
      exact .inl rfl
  · cases h
    exact .inl rfl

theorem execEpInt_cases {rxstp : Bool} (h : execEpInt rxstp s = .next t) :
    (rxstp = false ∧ t = { s with pendEp := false, ep0Stall := true, ctlPhase := .idle }) ∨
    (rxstp = true ∧ ∃ pkt draws,
      t = { s with
        pendEp := false
        setupPkt := pkt
        draws := draws
        ep0Rxstp := false
        ep0Rxout := false
        ep0Txini := false
        ep0Rx := []
        ep0Tx := []
        ep0Banks := []
        ctlPhase := .idle }) := by
  unfold execEpInt at h
  dsimp only at h
  split at h
  · obtain ⟨pkt, rx, draws, hr⟩ := readSetup_eq { s with pendEp := false }
    rw [hr] at h
    cases h
    exact .inr ⟨‹_›, pkt, draws, rfl⟩
  · cases h
    exact .inl ⟨eq_false_of_ne_true ‹_›, rfl⟩

theorem execStall_cases {w : Setup64} (h : execStall w s = .next t) :
    t = { s with ep0Stall := true, ctlPhase := .idle } := by
  cases h; rfl

/-! ### Data stages -/

/-- The data stage that begins over a reply. -/
def stageStart (data : List Byte) (wLength : Half) : CtlPhase :=
  .dataIn data 0 (min data.length wLength.toNat) wLength.toNat 0

/-- What a step of a data stage can do, from the stage it holds at. -/
def StageStep (s t : State) (data : List Byte) (off len wlen : Nat) : Prop :=
  t = { s with ctlPhase := .idle } ∨
  (∃ p, t = { s with ctlPhase := .dataIn data off len wlen p }) ∨
  (∃ phase, (phase = .idle ∨
      (phase = .dataIn data (off + min (len - off) 32) len wlen 0 ∧
        dataStageDone (off + min (len - off) 32) (min (len - off) 32) len wlen = false)) ∧
    t = { s with
      txLog := s.txLog ++ [⟨0, s.ep0Tx ++ chunk data off len⟩]
      ep0Banks := s.ep0Filled (s.ep0Tx ++ chunk data off len)
      ep0Tx := []
      ep0Txini := false
      ctlPhase := phase })

/-- What one call of a request with a data stage can do: the stage starts over some reply, or takes
one poll of the hold it stands at. -/
def RequestStep (s t : State) : Prop :=
  (∃ data wLength, t = { s with ctlPhase := stageStart data wLength }) ∨
  (∃ data off len wlen polls, s.ctlPhase = .dataIn data off len wlen polls ∧
    StageStep s t data off len wlen)

theorem controlIn_cases {data : List Byte} {wLength : Half} (h : controlIn data wLength s = t) :
    RequestStep s t := by
  subst h
  unfold controlIn
  split
  · exact .inl ⟨_, _, rfl⟩
  · exact .inl ⟨_, _, rfl⟩
  · exact .inr ⟨_, _, _, _, _, ‹_›, controlDataPoll_cases ..⟩

/-! ### The requests -/

theorem execSetAddress_cases {v ix l : Half} (h : execSetAddress v ix l s = .next t) :
    ((∀ addr polls, s.ctlPhase ≠ .addrWait addr polls) ∧
      t = { s with
        ctlPhase := .addrWait (addressOperand v) 0
        txLog := s.txLog ++ [⟨0, s.ep0Tx⟩]
        ep0Banks := s.ep0Filled s.ep0Tx
        ep0Tx := []
        ep0Txini := false }) ∨
    (∃ addr polls, s.ctlPhase = .addrWait addr polls ∧
      (t = { s with devAddr := addr, addrEn := true, ctlPhase := .idle } ∨
        t = { s with ctlPhase := .addrWait addr (s.nextPolls polls) })) := by
  unfold execSetAddress at h
  split at h <;> cases h
  · exact .inl ⟨by simp_all, rfl⟩
  · exact .inl ⟨by simp_all, rfl⟩
  · refine .inr ⟨_, _, ‹_›, ?_⟩
    unfold addressPoll
    split
    · exact .inl rfl
    · exact .inr rfl

/-- The look-up and read of `GET_DESCRIPTOR` never leaves the entry: it stalls or starts. -/
theorem descriptorStart_eq (v l : Half) (s : State) :
    descriptorStart v l s = .next
      (match s.cfg.descTable.entry v with
        | none => { s with ep0Stall := true, ctlPhase := .idle }
        | some data => { s with ctlPhase := stageStart data l }) := by
  unfold descriptorStart
  simp only [descriptorKey]
  cases hd : s.cfg.descTable.entry v with
  | none => rfl
  | some data => simp only [memRead_entry hd]; rfl

theorem getDescriptor_cases {v l : Half} (h : getDescriptor v l s = .next t) :
    t = { s with ep0Stall := true, ctlPhase := .idle } ∨ RequestStep s t := by
  unfold getDescriptor at h
  have start (h : descriptorStart v l s = .next t) :
      t = { s with ep0Stall := true, ctlPhase := .idle } ∨ RequestStep s t := by
    rw [descriptorStart_eq] at h
    cases h
    split
    · exact .inl rfl
    · exact .inr (.inl ⟨_, _, rfl⟩)
  split at h
  · exact start h
  · exact start h
  · cases h
    exact .inr (.inr ⟨_, _, _, _, _, ‹_›, controlDataPoll_cases ..⟩)

theorem execSetConfiguration_cases {v ix l : Half} (h : execSetConfiguration v ix l s = .next t) :
    (v = 1 ∧
      t = { s with
        configuration := 1
        txLog := s.txLog ++ [⟨0, s.ep0Tx⟩]
        ep0Banks := s.ep0Filled s.ep0Tx
        ep0Tx := []
        ep0Txini := false
        kbCfg := s.kbCfgEnabled
        kbBanks := []
        kbTx := []
        kbRwal := true }) ∨
    (v ≠ 1 ∧ t = { s with ep0Stall := true, ctlPhase := .idle }) := by
  unfold execSetConfiguration at h
  have hv : configurationValid v = true ↔ v = 1 := by
    simp [configurationValid, Config.configValue]
  split at h <;> cases h
  · exact .inl ⟨hv.1 ‹_›, rfl⟩
  · exact .inr ⟨fun e => ‹¬ _› (hv.2 e), rfl⟩

theorem execSetIdle_eq (v l : Half) (s : State) :
    execSetIdle v l s = .next
      { s with
        idleConfig := idleOperand v
        idleCount := 0
        txLog := s.txLog ++ [⟨0, s.ep0Tx⟩]
        ep0Banks := s.ep0Filled s.ep0Tx
        ep0Tx := []
        ep0Txini := false } := rfl

theorem execSetProtocol_eq (v l : Half) (s : State) :
    execSetProtocol v l s = .next
      { s with
        protocol := protocolOperand v
        txLog := s.txLog ++ [⟨0, s.ep0Tx⟩]
        ep0Banks := s.ep0Filled s.ep0Tx
        ep0Tx := []
        ep0Txini := false } := rfl

/-! ### The foreground commands -/

theorem execUsbSetup_cases (h : execUsbSetup s = .next t) :
    s.inHandler = false ∧
      ((s.fg = .idle ∧ s.attached = false ∧
          t = { s with fg := .usbSetup .step2, padRegOn := true }) ∨
        (s.fg = .usbSetup .step2 ∧ t = { s with fg := .usbSetup (.step3 0), pllOn := true }) ∨
        (∃ polls, s.fg = .usbSetup (.step3 polls) ∧
          (t = { s with fg := .idle, results := s.results ++ [.usbSetup false] } ∨
            (s.pllLocked = true ∧ t = { s with fg := .usbSetup .step4 }) ∨
            t = { s with fg := .usbSetup (.step3 (polls + 1)) })) ∨
        (s.fg = .usbSetup .step4 ∧ t = { s with fg := .usbSetup .step5, usbOn := true }) ∨
        (s.fg = .usbSetup .step5 ∧
          t = { s with fg := .usbSetup .step6, giEnEorst := true, giEnSof := true }) ∨
        (s.fg = .usbSetup .step6 ∧
          t = { s with
            attached := true, fg := .idle, results := s.results ++ [.usbSetup true] })) := by
  unfold execUsbSetup at h
  split at h
  · cases h
  refine ⟨eq_false_of_ne_true ‹_›, ?_⟩
  split at h
  · split at h
    · cases h
    · cases h
      exact .inl ⟨‹_›, eq_false_of_ne_true ‹_›, rfl⟩
  · rename_i pos hf
    cases h
    cases pos with
    | step2 => exact .inr (.inl ⟨hf, rfl⟩)
    | step3 polls =>
      refine .inr (.inr (.inl ⟨polls, hf, ?_⟩))
      unfold setupStep
      dsimp only
      split
      · exact .inl rfl
      split
      · exact .inr (.inl ⟨‹_›, rfl⟩)
      split
      · exact .inl rfl
      · exact .inr (.inr rfl)
    | step4 => exact .inr (.inr (.inr (.inl ⟨hf, rfl⟩)))
    | step5 => exact .inr (.inr (.inr (.inr (.inl ⟨hf, rfl⟩))))
    | step6 => exact .inr (.inr (.inr (.inr (.inr ⟨hf, rfl⟩))))
  · cases h
  · cases h

/-- How a transmit that fails ends the command. -/
def SendFails (s t : State) : Prop :=
  (s.cfg.sendFailPolicy = .keep ∧
    t = { s with
      sendPhase := .none, fg := .idle, results := s.results ++ [.sendKeypress false] }) ∨
  (s.cfg.sendFailPolicy = .clear ∧
    t = { s with
      sendPhase := .none
      modifierKeys := 0
      keyboardKeys := s.keyboardKeys.set 0 0
      fg := .idle
      results := s.results ++ [.sendKeypress false] })

theorem transmitFails_cases (s : State) : SendFails s (transmitFails s) := by
  cases h : s.cfg.sendFailPolicy
  · exact .inl ⟨h, by simp [transmitFails, afterSendFailure, h, transportFailure, finishCommand]⟩
  · exact .inr ⟨h, by simp [transmitFails, afterSendFailure, h, transportFailure, finishCommand]⟩

/-- How a transmit that succeeds goes on: to step 4 after the first, to the end after the second. -/
def SendGoesOn (key mod : Byte) (n : TxOrd) (fg : FgPos) (results new : List Result) : Prop :=
  (n = .first ∧ fg = .send key mod .step4 ∧ new = results) ∨
  (n = .second ∧ fg = .idle ∧ new = results ++ [.sendKeypress true])

theorem execSendKeypress_cases {key mod : Byte} (h : execSendKeypress key mod s = .next t) :
    s.inHandler = false ∧
      ((s.fg = .idle ∧ t = { s with fg := .send key mod .step2, modifierKeys := mod }) ∨
        (s.fg = .send key mod .step2 ∧
          t = { s with
            fg := .send key mod (.t0 .first), keyboardKeys := s.keyboardKeys.set 0 key }) ∨
        (∃ n, s.fg = .send key mod (.t0 n) ∧
          ((s.configuration ≠ 0 ∧ t = { s with fg := .send key mod (.t1 n) }) ∨
            (s.configuration = 0 ∧ SendFails s t))) ∨
        (∃ n, s.fg = .send key mod (.t1 n) ∧
          t = { s with
            fg := .send key mod (.t2 n s.intEnable s.transmitDeadline), intEnable := false }) ∨
        (∃ n saved d, s.fg = .send key mod (.t2 n saved d) ∧
          ((s.kbRwal = false ∧ t = { s with fg := .send key mod (.t3 n saved d) }) ∨
            (s.kbRwal = true ∧ ∃ fg results, SendGoesOn key mod n fg s.results results ∧
              t = { s with
                txLog := s.txLog ++ [⟨s.cfg.kbEp, s.kbTx ++ buildReport s⟩]
                kbBanks := s.kbFilled (s.kbTx ++ buildReport s)
                kbTx := []
                kbRwal := false
                idleCount := 0
                intEnable := saved
                sendPhase := .none
                fg := fg
                results := results }))) ∨
        (∃ n saved d, s.fg = .send key mod (.t3 n saved d) ∧
          t = { s with
            fg := .send key mod (.t4 n d), intEnable := saved, sendPhase := .txPoll n d }) ∨
        (∃ n d, s.fg = .send key mod (.t4 n d) ∧
          ((s.configuration ≠ 0 ∧ t = { s with fg := .send key mod (.t5 n d) }) ∨
            (s.configuration = 0 ∧ SendFails s t))) ∨
        (∃ n d, s.fg = .send key mod (.t5 n d) ∧
          ((s.frame ≠ d ∧ t = { s with fg := .send key mod (.t6 n d) }) ∨
            (s.frame = d ∧ SendFails s t))) ∨
        (∃ n d, s.fg = .send key mod (.t6 n d) ∧
          t = { s with fg := .send key mod (.t2 n s.intEnable d), intEnable := false }) ∨
        (s.fg = .send key mod .step4 ∧
          t = { s with fg := .send key mod .step5, modifierKeys := 0 }) ∨
        (s.fg = .send key mod .step5 ∧
          t = { s with
            fg := .send key mod (.t0 .second), keyboardKeys := s.keyboardKeys.set 0 0 })) := by
  unfold execSendKeypress at h
  split at h
  · cases h
  refine ⟨eq_false_of_ne_true ‹_›, ?_⟩
  have hc : (s.configured = true) = (s.configuration ≠ 0) := by simp [State.configured]
  split at h
  · cases h
    exact .inl ⟨‹_›, rfl⟩
  · rename_i key' mod' pos hf
    split at h
    · rename_i hkm
      obtain ⟨rfl, rfl⟩ := hkm
      cases h
      right
      cases pos with
      | step2 => exact .inl ⟨hf, rfl⟩
      | t0 n =>
        refine .inr (.inl ⟨n, hf, ?_⟩)
        simp only [sendStep, hc]
        split
        · exact .inl ⟨‹_›, rfl⟩
        · exact .inr ⟨not_not.1 ‹_›, transmitFails_cases s⟩
      | t1 n => exact .inr (.inr (.inl ⟨n, hf, rfl⟩))
      | t2 n saved d =>
        refine .inr (.inr (.inr (.inl ⟨n, saved, d, hf, ?_⟩)))
        cases hk : s.kbRwal
        · exact .inl ⟨rfl, by simp [sendStep, State.kbReady, hk, toSendStep]⟩
        · refine .inr ⟨rfl, ?_⟩
          simp only [sendStep, State.kbReady, hk, if_true]
          rw [pushReport_eq]
          cases n
          · exact ⟨_, _, .inl ⟨rfl, rfl, rfl⟩, rfl⟩
          · exact ⟨_, _, .inr ⟨rfl, rfl, rfl⟩, rfl⟩
      | t3 n saved d => exact .inr (.inr (.inr (.inr (.inl ⟨n, saved, d, hf, rfl⟩))))
      | t4 n d =>
        refine .inr (.inr (.inr (.inr (.inr (.inl ⟨n, d, hf, ?_⟩)))))
        simp only [sendStep, hc]
        split
        · exact .inl ⟨‹_›, rfl⟩
        · exact .inr ⟨not_not.1 ‹_›, transmitFails_cases s⟩
      | t5 n d =>
        refine .inr (.inr (.inr (.inr (.inr (.inr (.inl ⟨n, d, hf, ?_⟩))))))
        simp only [sendStep]
        split
        · exact .inr ⟨‹_›, transmitFails_cases s⟩
        · exact .inl ⟨‹_›, rfl⟩
      | t6 n d => exact .inr (.inr (.inr (.inr (.inr (.inr (.inr (.inl ⟨n, d, hf, rfl⟩)))))))
      | step4 => exact .inr (.inr (.inr (.inr (.inr (.inr (.inr (.inr (.inl ⟨hf, rfl⟩))))))))
      | step5 => exact .inr (.inr (.inr (.inr (.inr (.inr (.inr (.inr (.inr ⟨hf, rfl⟩))))))))
    · cases h
  · cases h
  · cases h

theorem execHasConfigured_cases (h : execHasConfigured s = .next t) :
    (s.inHandler = true ∨ s.fg = .idle) ∧
      t = { s with results := s.results ++ [.hasConfigured s.configured] } := by
  unfold execHasConfigured at h
  split at h
  · rename_i hc
    cases h
    exact ⟨by simpa using hc, rfl⟩
  · cases h

end Sys2Proof.Machine
end

