-- ==== Sys2Proof/Laws/Memory.lean ====
section
/-! SUPPORT. The one addressable memory, the descriptor ROM, keeps its canonical form: no operation
writes it, and reset has it. -/

namespace Sys2Proof.Machine

variable {s t : State}

theorem RequestStep.cfg (h : RequestStep s t) : t.cfg = s.cfg := by
  rcases h with ⟨_, _, rfl⟩ | ⟨_, _, _, _, _, _, rfl | ⟨_, rfl⟩ | ⟨_, _, rfl⟩⟩ <;> rfl

theorem SendFails.cfg (h : SendFails s t) : t.cfg = s.cfg := by
  rcases h with ⟨_, rfl⟩ | ⟨_, rfl⟩ <;> rfl

theorem execUsbSetup_cfg (h : execUsbSetup s = .next t) : t.cfg = s.cfg := by
  rcases (execUsbSetup_cases h).2 with
    ⟨_, _, rfl⟩ | ⟨_, rfl⟩ | ⟨_, _, rfl | ⟨_, rfl⟩ | rfl⟩ | ⟨_, rfl⟩ | ⟨_, rfl⟩ | ⟨_, rfl⟩ <;> rfl

theorem execSendKeypress_cfg {key mod : Byte} (h : execSendKeypress key mod s = .next t) :
    t.cfg = s.cfg := by
  rcases (execSendKeypress_cases h).2 with
    ⟨_, rfl⟩ | ⟨_, rfl⟩ | ⟨_, _, ⟨_, rfl⟩ | ⟨_, h⟩⟩ | ⟨_, _, rfl⟩ |
    ⟨_, _, _, _, ⟨_, rfl⟩ | ⟨_, _, _, _, rfl⟩⟩ | ⟨_, _, _, _, rfl⟩ | ⟨_, _, _, ⟨_, rfl⟩ | ⟨_, h⟩⟩ |
    ⟨_, _, _, ⟨_, rfl⟩ | ⟨_, h⟩⟩ | ⟨_, _, _, rfl⟩ | ⟨_, rfl⟩ | ⟨_, rfl⟩ <;>
  first | rfl | exact h.cfg

/-- No operation writes the parameters, the descriptor ROM among them. -/
theorem exec_cfg (i : Instr) (h : exec i s = .next t) : t.cfg = s.cfg := by
  cases i <;> simp only [exec] at h
  case tick => rcases execTick_cases h with ⟨_, rfl⟩ | ⟨_, rfl⟩ <;> rfl
  case kpTake => rcases execKpTake_cases h with ⟨_, ⟨_, rfl⟩ | ⟨_, _, rfl⟩⟩ <;> rfl
  case giEorst => rcases execGiEorst_cases h with ⟨_, rfl⟩ | ⟨_, rfl⟩ <;> rfl
  case giSof =>
    rcases execGiSof_cases h with rfl | ⟨_, rfl | ⟨_, _, _, rfl⟩ | ⟨_, _, _, rfl⟩⟩ <;> rfl
  case epInt => rcases execEpInt_cases h with ⟨_, rfl⟩ | ⟨_, _, _, rfl⟩ <;> rfl
  case setAddress =>
    rcases execSetAddress_cases h with ⟨_, rfl⟩ | ⟨_, _, _, rfl | rfl⟩ <;> rfl
  case getDescriptorDevice =>
    rcases getDescriptor_cases h with rfl | h
    · rfl
    · exact h.cfg
  case getDescriptorInterface =>
    rcases getDescriptor_cases h with rfl | h
    · rfl
    · exact h.cfg
  case setConfiguration => rcases execSetConfiguration_cases h with ⟨_, rfl⟩ | ⟨_, rfl⟩ <;> rfl
  case setIdle => rw [execSetIdle_eq] at h; cases h; rfl
  case setProtocol => rw [execSetProtocol_eq] at h; cases h; rfl
  case stall => rw [execStall_cases h]
  case usbSetup => exact execUsbSetup_cfg h
  case sendKeypress => exact execSendKeypress_cfg h
  case hasConfigured => rw [(execHasConfigured_cases h).2]
  all_goals exact (controlIn_cases (Host.Outcome.next.inj h)).cfg

/-- Every operation keeps the descriptor ROM's canonical form. -/
theorem exec_memory_wf (i : Instr) (h : exec i s = .next t)
    (hw : Memory.wf s.cfg.descTable = true) : Memory.wf t.cfg.descTable = true := by
  rw [exec_cfg i h]; exact hw

/-- The descriptor ROM of the reset state is in canonical form. -/
theorem reset_memory_wf : Memory.wf State.reset.cfg.descTable = true := by decide

/-- The reset state's parameters meet R8 and R227. -/
theorem reset_params_wf : State.reset.cfg.wf = true := by
  have htable : Params.descTableWf State.reset.cfg = true := by decide
  have hid : Params.identityWf State.reset.cfg = true := by
    simp only [Params.identityWf, Bool.and_eq_true]
    refine ⟨⟨⟨?_, by decide⟩, by decide⟩, by decide⟩
    exact beq_iff_eq.2 rfl
  simp only [Params.wf, htable, hid, Bool.and_true]
  decide

/-- Reads inside an entry answer; nothing else does (R61). -/
theorem memRead_isSome {table : DescTable} {key : Half} {off n : Nat} :
    (memRead table key off n).isSome = true ↔
      ∃ bs, table.entry key = some bs ∧ off + n ≤ bs.length := by
  unfold memRead
  split
  · rename_i bs hb
    split <;> simp_all
  · simp_all

end Sys2Proof.Machine
end

