-- ==== Sys2Proof/Laws/PerInstr.lean ====
section
/-! SUPPORT. One lemma per operation: the word that selects it fits its format (R107). -/

namespace Sys2Proof.Laws

/-- The word of the operation, if it has one, is no wider than its format (R107). -/
def EncodingFits.Statement (i : Instr) : Prop :=
  ∀ (kbIf : Half) (f : Format) (w : Setup64), encode kbIf i = some (f, w) →
    w.toNat < 2 ^ f.width

/-- A word of format S always fits. -/
theorem setup_fits {w w' : Setup64} {f : Format} (h : some (Format.s, w') = some (f, w)) :
    w.toNat < 2 ^ f.width := by
  cases h
  exact BitVec.isLt _

theorem EncodingFits.tick (sw : BitVec 3) :
    EncodingFits.Statement (.tick sw) := by
  intro _ _ _ h
  cases h
  have := sw.isLt
  simp only [Format.width, BitVec.toNat_setWidth]
  omega

theorem EncodingFits.kpTake :
    EncodingFits.Statement .kpTake := by
  intro _ _ _ h
  cases h

theorem EncodingFits.giEorst :
    EncodingFits.Statement .giEorst := by
  intro _ _ _ h
  cases h
  decide

theorem EncodingFits.giSof :
    EncodingFits.Statement .giSof := by
  intro _ _ _ h
  cases h
  decide

theorem EncodingFits.epInt (rxstp : Bool) :
    EncodingFits.Statement (.epInt rxstp) := by
  intro _ _ _ h
  cases h
  cases rxstp <;> decide

theorem EncodingFits.getStatus (v : Half) (ix : Half) (l : Half) :
    EncodingFits.Statement (.getStatus v ix l) := fun _ _ _ => setup_fits

theorem EncodingFits.setAddress (v : Half) (ix : Half) (l : Half) :
    EncodingFits.Statement (.setAddress v ix l) := fun _ _ _ => setup_fits

theorem EncodingFits.getDescriptorDevice (v : Half) (ix : Half) (l : Half) :
    EncodingFits.Statement (.getDescriptorDevice v ix l) := fun _ _ _ => setup_fits

theorem EncodingFits.getDescriptorInterface (v : Half) (ix : Half) (l : Half) :
    EncodingFits.Statement (.getDescriptorInterface v ix l) := fun _ _ _ => setup_fits

theorem EncodingFits.getConfiguration (v : Half) (ix : Half) (l : Half) :
    EncodingFits.Statement (.getConfiguration v ix l) := fun _ _ _ => setup_fits

theorem EncodingFits.setConfiguration (v : Half) (ix : Half) (l : Half) :
    EncodingFits.Statement (.setConfiguration v ix l) := fun _ _ _ => setup_fits

theorem EncodingFits.getReport (v : Half) (l : Half) :
    EncodingFits.Statement (.getReport v l) := fun _ _ _ => setup_fits

theorem EncodingFits.getIdle (v : Half) (l : Half) :
    EncodingFits.Statement (.getIdle v l) := fun _ _ _ => setup_fits

theorem EncodingFits.getProtocol (v : Half) (l : Half) :
    EncodingFits.Statement (.getProtocol v l) := fun _ _ _ => setup_fits

theorem EncodingFits.setIdle (v : Half) (l : Half) :
    EncodingFits.Statement (.setIdle v l) := fun _ _ _ => setup_fits

theorem EncodingFits.setProtocol (v : Half) (l : Half) :
    EncodingFits.Statement (.setProtocol v l) := fun _ _ _ => setup_fits

theorem EncodingFits.stall (w : Setup64) :
    EncodingFits.Statement (.stall w) := fun _ _ _ => setup_fits

theorem EncodingFits.usbSetup :
    EncodingFits.Statement .usbSetup := by
  intro _ _ _ h
  cases h

theorem EncodingFits.sendKeypress (key : Byte) (mod : Byte) :
    EncodingFits.Statement (.sendKeypress key mod) := by
  intro _ _ _ h
  cases h

theorem EncodingFits.hasConfigured :
    EncodingFits.Statement .hasConfigured := by
  intro _ _ _ h
  cases h

end Sys2Proof.Laws
end

