-- ==== Sys2Proof/Laws/Step.lean ====
section
/-! SUPPORT. What a step can do: the moves taken apart, once. -/

namespace Sys2Proof.Machine

@[simp] theorem andThen_next (s : State) (f : State → Host.Outcome State Fault Refusal) :
    andThen (.next s) f = f s := rfl
@[simp] theorem andThen_fault (r : Fault) (f : State → Host.Outcome State Fault Refusal) :
    andThen (.fault r) f = .fault r := rfl
@[simp] theorem andThen_refused (r : Refusal) (f : State → Host.Outcome State Fault Refusal) :
    andThen (.refused r) f = .refused r := rfl

theorem andThen_eq_next {o : Host.Outcome State Fault Refusal}
    {f : State → Host.Outcome State Fault Refusal} {t : State} :
    andThen o f = .next t ↔ ∃ u, o = .next u ∧ f u = .next t := by
  cases o <;> simp

@[simp] theorem runAll_nil (s : State) : runAll [] s = .next s := rfl
@[simp] theorem runAll_singleton (i : Instr) (s : State) : runAll [i] s = exec i s := by
  simp only [runAll]
  cases exec i s <;> rfl

theorem runAll_append (is js : List Instr) (s : State) :
    runAll (is ++ js) s = andThen (runAll is s) (runAll js) := by
  induction is generalizing s with
  | nil => rfl
  | cons i is ih =>
    simp only [List.cons_append, runAll]
    cases exec i s <;> simp [ih]

/-- A property that every operation keeps is kept by a run of operations. -/
theorem runAll_keeps {P : State → Prop} (h : ∀ i s t, exec i s = .next t → P s → P t)
    {is : List Instr} {s t : State} (hr : runAll is s = .next t) (hs : P s) : P t := by
  induction is generalizing s with
  | nil => cases hr; exact hs
  | cons i is ih =>
    obtain ⟨u, hu, ht⟩ := andThen_eq_next.1 hr
    exact ih ht (h i s u hu hs)

/-! ### What the handlers fetch -/

theorem operationsOf_tick (kbIf : Half) (s : State) :
    operationsOf kbIf (handlerWord .tick s) = [.tick s.sw] := by
  have h : (s.sw.setWidth 64).toNat < 2 ^ Format.k.width := by
    simp [Format.width]; omega
  simp only [operationsOf, handlerWord, decode, h, if_true]
  simp

theorem operationsOf_gen (kbIf : Half) (s : State) :
    operationsOf kbIf (handlerWord .gen s) =
      (if s.causeEorst then [.giEorst] else []) ++ (if s.causeSof then [.giSof] else []) := by
  cases h1 : s.causeEorst <;> cases h2 : s.causeSof <;>
    simp [operationsOf, handlerWord, decode, decodeCauses, Format.width, h1, h2]

theorem operationsOf_ep (kbIf : Half) (s : State) :
    operationsOf kbIf (handlerWord .ep s) = [.epInt s.ep0Rxstp] := by
  cases h : s.ep0Rxstp <;> simp [operationsOf, handlerWord, decode, Format.width, h]

theorem operationsOf_request (kbIf : Half) (s : State) :
    operationsOf kbIf (requestWord s) = [decodeSetup kbIf s.setupPkt.word] := by
  have h : s.setupPkt.word.toNat < 2 ^ Format.s.width := s.setupPkt.word.isLt
  simp [operationsOf, requestWord, decode, h]

/-! ### Inversion -/

/-- If a step answers a next state, one of these moves was made from the state with the move used
up: the environment acted; nothing could move; a handler started and ran its operations; `A_EP`
took a step of the request it serves; the foreground took a step of a command. -/
theorem step_cases {s t : State} (h : step s = .next t) :
    (∃ e, t = applyEnv e s.takeChoice) ∨
    t = s.takeChoice ∨
    (∃ hd u, s.takeChoice.mayStart hd = true ∧
      runAll (operationsOf s.takeChoice.cfg.keyboardInterface (handlerWord hd s.takeChoice))
        (enterHandler hd s.takeChoice) = .next u ∧
      t = afterStart hd s.takeChoice.ep0Rxstp u) ∨
    (∃ u, s.takeChoice.inHandler = true ∧
      exec (decodeSetup s.takeChoice.cfg.keyboardInterface s.takeChoice.setupPkt.word)
        s.takeChoice = .next u ∧
      t = afterRequest u) ∨
    (∃ c : Command, exec c.toInstr s.takeChoice = .next t ∧
      s.takeChoice.inHandler = false ∧
      (s.takeChoice.fg = .idle ∨ s.takeChoice.fg.command = some c)) := by
  unfold step stepChoice at h
  generalize s.takeChoice = u at h ⊢
  generalize s.nextChoice = c at h
  split at h
  · rename_i e; cases h; exact .inl ⟨e, rfl⟩
  · rename_i hd
    unfold startHandler at h
    split at h
    · rename_i hm
      obtain ⟨v, hv, ht⟩ := andThen_eq_next.1 h
      cases ht
      exact .inr (.inr (.inl ⟨hd, v, hm, hv, rfl⟩))
    · cases h; exact .inr (.inl rfl)
  · unfold advanceHandler at h
    split at h
    · rename_i hi
      rw [operationsOf_request, runAll_singleton] at h
      obtain ⟨v, hv, ht⟩ := andThen_eq_next.1 h
      cases ht
      exact .inr (.inr (.inr (.inl ⟨v, hi, hv, rfl⟩)))
    · cases h; exact .inr (.inl rfl)
  · unfold advanceForeground at h
    split at h
    · cases h; exact .inr (.inl rfl)
    · rename_i hi
      split at h
      · cases h; exact .inr (.inl rfl)
      · rename_i c hc
        exact .inr (.inr (.inr (.inr ⟨c, h, by simpa using hi, .inr hc⟩)))
  · rename_i c
    unfold issueCommand at h
    split at h
    · cases h; exact .inr (.inl rfl)
    · rename_i hi
      split at h
      · exact .inr (.inr (.inr (.inr ⟨c, h, by simpa using hi, .inl ‹_›⟩)))
      · cases h

/-- The move a scheduled step makes. -/
theorem step_of_sched {s : State} {c : Choice} {rest : List Choice} (h : s.sched = c :: rest) :
    step s = stepChoice c { s with sched := rest } := by
  simp [step, State.nextChoice, State.takeChoice, h]

end Sys2Proof.Machine
end

