-- ==== Sys2Proof/Tests/Slice0.lean ====
section
/-! SUPPORT. Small checks of the model: ill-formed terms are refused, words written out from the
encoding rules decode to their operations, one step of each operation against a worked example of
spec/, and for every statement with hypotheses a state that meets them. -/

open Sys2Proof Sys2Proof.Machine

namespace Sys2Proof.Tests

/-! ### Helpers -/

/-- Parameters with a number for each OPEN one, so that tests evaluate. -/
def params : Params :=
  { Config.params with
    pllLockCeiling := 3, vendorId := 0x1234, productId := 0x5678
    descTable := Config.defaultDescTable 0x1234 0x5678 3 1 Config.strManufacturer
      Config.strProduct }

/-- Reset with those parameters. -/
def base : State := State.resetWith params

/-- A configured device with interrupts on and the keyboard endpoint ready. -/
def up : State := { base with configuration := 1, intEnable := true, kbRwal := true }

/-- A field of the next state, if there is one. -/
def after {α : Type} (f : State → α) : Host.Outcome State Fault Refusal → Option α
  | .next s => some (f s)
  | .fault _ => none
  | .refused _ => none

/-! ### WellFormed: each check refuses an ill-formed term -/

/-- `80 06 00 01 ...` is `GET_DESCRIPTOR`, so it is no word of `STALL` (R104). -/
theorem test_wf_stall_of_a_row : (Instr.stall 0x0012000001000680).wf 0 = false := by decide
/-- `21 09 00 02 ...`, `SET_REPORT`, matches no row (R196). -/
theorem test_wf_stall_of_no_row : (Instr.stall 0x0001000002000921).wf 0 = true := by decide
theorem test_wf_params : params.wf = true := by decide
theorem test_wf_no_pll_poll : { params with pllLockCeiling := 0 }.wf = false := by decide
theorem test_wf_kb_ep_zero : { params with kbEp := 0 }.wf = false := by decide
theorem test_wf_three_banks : { params with kbEpBanks := 3 }.wf = false := by decide
theorem test_wf_kb_size : { params with kbEpSize := 16 }.wf = false := by decide
theorem test_wf_frame_width : { params with frameW := 0 }.wf = false := by decide
/-- R227 item 4: the endpoint descriptor must name `KB_EP`. -/
theorem test_wf_other_endpoint : { params with kbEp := 4 }.wf = false := by decide
theorem test_wf_table_empty : { params with descTable := [] }.wf = false := by decide
theorem test_canonical_refuses_disorder :
    DescTable.canonical [(0x0200, [1]), (0x0100, [1])] = false := by decide
theorem test_canonical_refuses_empty_entry : DescTable.canonical [(0x0100, [])] = false := by decide
/-- R227 item 1: `bMaxPacketSize0` must be 32. -/
theorem test_wf_ep0_size :
    Params.descTableWf { params with
      descTable := params.descTable.map fun e =>
        if e.1 = 0x0100 then (e.1, e.2.set 7 0x40) else e } = false := by decide
/-- R227 item 4: the endpoint descriptor may stand anywhere in the configuration entry, here before
the HID descriptor; item 6 still wants that one at offset 18. -/
theorem test_wf_endpoint_found :
    Params.endpointWf { params with
      descTable := [(0x0200, Config.configurationDescriptor 3 1 ++ [0x05, 0x24, 0x00, 0x10, 0x01])] }
      = true := by decide
theorem test_wf_two_endpoints :
    Params.endpointWf { params with
      descTable := [(0x0200, Config.configurationDescriptor 3 1 ++
        [0x07, 0x05, 0x02, 0x03, 0x08, 0x00, 0x01])] } = false := by decide
/-- R227 item 4: an endpoint descriptor cut inside `wMaxPacketSize`, or before its interval, is
refused, whatever its length byte says. -/
theorem test_wf_endpoint_cut :
    Params.endpointWf { params with
      descTable := [(0x0200, (Config.configurationDescriptor 3 0).take 32)] } = false ∧
    Params.identityWf { params with
      kbEpInterval := 0
      descTable := params.descTable.map fun e =>
        if e.1 = 0x0200 then (e.1, (e.2.take 33).set 2 33) else e } = false := by decide
/-- R8: the table carries the identifiers, the interval and the texts. -/
theorem test_wf_identity :
    { params with vendorId := 0x1235 }.wf = false ∧ { params with productId := 0 }.wf = false ∧
    { params with kbEpInterval := 2 }.wf = false ∧
    { params with strManufacturer := [0x41] }.wf = false ∧
    { params with strProduct := [] }.wf = false := by decide
/-- R231: the default report descriptor declares the report of R99. -/
theorem test_hid_default : reportDescriptorWf Config.hidReportDescriptor = true := by decide
/-- A report descriptor with an output item (`91 02`) is no plain input report. -/
theorem test_hid_output_item :
    reportDescriptorWf ([0x91, 0x02] ++ Config.hidReportDescriptor) = false := by decide
/-- R227 item 7: 64 input bits laid out otherwise than R99, eight array bytes, are refused. -/
theorem test_hid_other_layout :
    reportDescriptorWf [0x05, 0x07, 0x75, 0x08, 0x95, 0x08, 0x81, 0x00] = false := by decide
/-- The report of R231 with these items for the modifiers' usages and these for the keycodes'. -/
def hidReport (modifiers keys : List Byte) : List Byte :=
  modifiers ++ [0x15, 0x00, 0x25, 0x01, 0x75, 0x01, 0x95, 0x08, 0x81, 0x02] ++
    [0x95, 0x01, 0x75, 0x08, 0x81, 0x01] ++
    [0x95, 0x06, 0x75, 0x08, 0x15, 0x00, 0x25, 0x65] ++ keys ++ [0x81, 0x00]
/-- The report may give its page in usages of four bytes. -/
theorem test_hid_extended_usages :
    reportDescriptorWf (hidReport
      [0x1B, 0xE0, 0x00, 0x07, 0x00, 0x2B, 0xE7, 0x00, 0x07, 0x00]
      [0x1B, 0x00, 0x00, 0x07, 0x00, 0x2B, 0x65, 0x00, 0x07, 0x00]) = true := by decide
/-- Keycode usages `04` to `0B` are no modifiers, and a report without usages, or with modifiers in the
keycode bytes, is not R99's. -/
theorem test_hid_wrong_usages :
    reportDescriptorWf (hidReport [0x05, 0x07, 0x19, 0xE0, 0x29, 0xE7] [0x19, 0x00, 0x29, 0x65]) = true ∧
    reportDescriptorWf (hidReport [0x05, 0x07, 0x19, 0x04, 0x29, 0x0B] [0x19, 0x00, 0x29, 0x65]) = false ∧
    reportDescriptorWf (hidReport [0x05, 0x07] [0x19, 0x00, 0x29, 0x65]) = false ∧
    reportDescriptorWf (hidReport [0x05, 0x07, 0x19, 0xE0, 0x29, 0xE7] []) = false ∧
    reportDescriptorWf (hidReport [0x05, 0x07, 0x19, 0xE0, 0x29, 0xE7] [0x19, 0x04, 0x29, 0x65]) = false := by
  decide
/-- R227 item 6: the HID entry is the nine bytes 18 to 26, which must be there. -/
theorem test_wf_hid_entry_cut :
    Params.descTableWf { params with
      descTable := params.descTable.map fun e =>
        if e.1 = 0x0200 then (e.1, (e.2.take 26).set 2 26)
        else if e.1 = 0x2100 then (e.1, e.2.take 8) else e } = false := by decide
/-- `96 08 01` is a Report Count of 264, read from both data bytes. -/
theorem test_hid_two_byte_count :
    hidItems 3 [0x96, 0x08, 0x01] = some [⟨0x94, 2, 264⟩] := by decide
/-- Push and Pop save and restore Report Size and Report Count. -/
theorem test_hid_push_pop :
    hidLayout [⟨0x74, 1, 1⟩, ⟨0x94, 1, 2⟩, ⟨0xA4, 0, 0⟩, ⟨0x74, 1, 8⟩, ⟨0xB4, 0, 0⟩, ⟨0x80, 1, 1⟩]
      .start = some [.reserved, .reserved] ∧
    hidLayout [⟨0xB4, 0, 0⟩] .start = none := by decide

/-! ### Decode: words written out from R91, R94, R95, R96, R104 and R109 -/

theorem test_decode_tick : decode 0 .k 0b100 = .ok [.tick 0b100] := by decide
theorem test_decode_eorst : decode 0 .g 0b10 = .ok [.giEorst] := by decide
theorem test_decode_sof : decode 0 .g 0b01 = .ok [.giSof] := by decide
theorem test_decode_both_causes : decode 0 .g 0b11 = .ok [.giEorst, .giSof] := by decide
theorem test_decode_no_cause : decode 0 .g 0b00 = .ok [] := by decide
theorem test_decode_ep_int : decode 0 .e 1 = .ok [.epInt true] := by decide
theorem test_decode_spurious : decode 0 .e 0 = .ok [.epInt false] := by decide
theorem test_decode_get_status :
    decodeBytes 0 .s [0x80, 0x00, 0x00, 0x00, 0x00, 0x00, 0x02, 0x00] =
      .ok [.getStatus 0 0 2] := by decide
theorem test_decode_set_address :
    decodeBytes 0 .s [0x00, 0x05, 0x07, 0x00, 0x00, 0x00, 0x00, 0x00] =
      .ok [.setAddress 7 0 0] := by decide
theorem test_decode_get_descriptor_device :
    decodeBytes 0 .s [0x80, 0x06, 0x02, 0x03, 0x09, 0x04, 0xFF, 0x00] =
      .ok [.getDescriptorDevice 0x0302 0x0409 0x00FF] := by decide
theorem test_decode_get_descriptor_interface :
    decodeBytes 0 .s [0x81, 0x06, 0x00, 0x22, 0x00, 0x00, 0x2D, 0x00] =
      .ok [.getDescriptorInterface 0x2200 0 0x002D] := by decide
theorem test_decode_get_configuration :
    decodeBytes 0 .s [0x80, 0x08, 0x00, 0x00, 0x00, 0x00, 0x01, 0x00] =
      .ok [.getConfiguration 0 0 1] := by decide
theorem test_decode_set_configuration :
    decodeBytes 0 .s [0x00, 0x09, 0x01, 0x00, 0x00, 0x00, 0x00, 0x00] =
      .ok [.setConfiguration 1 0 0] := by decide
theorem test_decode_get_report :
    decodeBytes 0 .s [0xA1, 0x01, 0x00, 0x01, 0x00, 0x00, 0x08, 0x00] =
      .ok [.getReport 0x0100 8] := by decide
theorem test_decode_get_idle :
    decodeBytes 0 .s [0xA1, 0x02, 0x00, 0x00, 0x00, 0x00, 0x01, 0x00] = .ok [.getIdle 0 1] := by
  decide
theorem test_decode_get_protocol :
    decodeBytes 0 .s [0xA1, 0x03, 0x00, 0x00, 0x00, 0x00, 0x01, 0x00] =
      .ok [.getProtocol 0 1] := by decide
theorem test_decode_set_idle :
    decodeBytes 0 .s [0x21, 0x0A, 0x00, 0x06, 0x00, 0x00, 0x00, 0x00] =
      .ok [.setIdle 0x0600 0] := by decide
theorem test_decode_set_protocol :
    decodeBytes 0 .s [0x21, 0x0B, 0x01, 0x00, 0x00, 0x00, 0x00, 0x00] =
      .ok [.setProtocol 1 0] := by decide
/-- A HID class request to another interface matches no row (R105). -/
theorem test_decode_other_interface :
    decodeBytes 0 .s [0xA1, 0x02, 0x00, 0x00, 0x01, 0x00, 0x01, 0x00] =
      .ok [.stall 0x00010001000002A1] := by decide
/-- `GET_STATUS` to an interface is unsupported (R173, R179). -/
theorem test_decode_status_of_interface :
    decodeBytes 0 .s [0x81, 0x00, 0x00, 0x00, 0x00, 0x00, 0x02, 0x00] =
      .ok [.stall 0x0002000000000081] := by decide
theorem test_decode_too_wide : decode 0 .k 8 = .error .wordTooWide := by decide
theorem test_decode_truncated : decodeBytes 0 .s [0x80, 0x06] = .error .truncated := by decide
theorem test_table_word_tick : decodeTableWord 8 6 = some (.tick 0b110) := by decide
theorem test_table_word_set_idle :
    decodeTableWord 64 0x0000000006000A21 = some (.setIdle 0x0600 0) := by decide

/-! ### One step of each operation, against the worked example of its rule -/

/-- R131: `key_mask = 0x14`, `sw = 0b000` emits `XY` and clears the mask. -/
theorem test_tick_emits :
    after (fun t => (t.keyMask, t.kpCell, t.kpOverrun))
      (exec (.tick 0) { base with keyMask := 0x14 })
      = some (0, 6, false) := by decide
/-- R134: from `0x20`, sample `110` gives mask `0x30`. -/
theorem test_tick_holds :
    after (fun t => (t.keyMask, t.kpCell)) (exec (.tick 0b110) { base with keyMask := 0x20 })
      = some (0x30, 0) := by decide
/-- R137: the second step returns the value read and empties the cell. -/
theorem test_kp_take :
    after (fun t => (t.kpCell, t.results)) (exec .kpTake { base with kpCell := 6, fg := .kpTake 6 })
      = some (0, [.kpTake 6]) := by decide
/-- R151: the example state after enumeration. -/
theorem test_eorst :
    after (fun t =>
        (t.configuration, t.idleConfig, t.protocol, t.kbCfg.enabled, t.ep0Cfg.rxstpIntEn))
      (exec .giEorst { up with
        idleConfig := 0, protocol := 0, kbCfg := { up.kbCfg with enabled := true } })
      = some (0, 125, 1, false, true) := by decide
/-- GE3 of 95_test_vectors.md: under `configuration_only` the rest of HidState, `sof_div = 3` among
it, is kept. -/
theorem test_eorst_configuration_only :
    after (fun t => (t.configuration, t.sofDiv, t.idleConfig))
      (exec .giEorst { up with
        cfg := { params with eorstResetScope := .configurationOnly }, sofDiv := 3, idleConfig := 6 })
      = some (0, 3, 6) := by decide
/-- R271: with the other reading of the parameter `sof_div` is zeroed under that scope too. -/
theorem test_eorst_always_zeroes_the_divider :
    after (fun t => (t.configuration, t.sofDiv, t.idleConfig))
      (exec .giEorst { up with
        cfg := { params with eorstResetScope := .configurationOnly, sofDivReset := .always }
        sofDiv := 3, idleConfig := 6 })
      = some (0, 0, 6) := by decide
/-- R152: the example: `idle_count` 124 of 125 at the fourth frame pushes eight zeros. -/
theorem test_sof_pushes :
    after (fun t => (t.sofDiv, t.idleCount, t.txLog))
      (exec .giSof { up with idleConfig := 125, idleCount := 124, sofDiv := 3 })
      = some (0, 0, [⟨3, [0, 0, 0, 0, 0, 0, 0, 0]⟩]) := by decide
/-- R152: a keyboard endpoint that is not ready is skipped silently. -/
theorem test_sof_not_ready :
    after (fun t => (t.sofDiv, t.idleCount, t.txLog))
      (exec .giSof { up with kbRwal := false, idleConfig := 125, idleCount := 124, sofDiv := 3 })
      = some (0, 124, []) := by decide
/-- R154: the eight bytes of `80 08 00 00 00 00 01 00` become the packet. -/
theorem test_ep_int_parses :
    after (fun t => (t.setupPkt, t.ep0Rx, t.ep0Rxstp))
      (exec (.epInt true) { base with
        ep0Rxstp := true, ep0Rx := [0x80, 0x08, 0, 0, 0, 0, 1, 0] })
      = some (⟨0x80, 0x08, 0, 0, 1⟩, [], false) := by decide
/-- R156 (a): a spurious interrupt stalls and reads nothing. -/
theorem test_ep_int_spurious :
    after (fun t => (t.ep0Stall, t.ep0Rx)) (exec (.epInt false) { base with ep0Rx := [1, 2] })
      = some (true, [1, 2]) := by decide
/-- R35: a SETUP packet ends a stall with its interrupt off too; nothing is pending. -/
theorem test_setup_ends_the_stall :
    (fun t : State => (t.ep0Stall, t.ep0Rxstp, t.pendEp, t.ep0Rx))
      (applyEnv (.setup 0x80) { base with ep0Stall := true })
      = (false, true, false, [0x80, 0, 0, 0, 0, 0, 0, 0]) := by decide
/-- R62, R172: the acknowledge leaves the FIFO empty, its one bank among it. -/
theorem test_ack_frees_the_bank :
    (ep0AckSetup { base with ep0Rx := [1], ep0Tx := [2], ep0Banks := [[3]] }).ep0Banks = [] ∧
    (ep0AckSetup { base with ep0Tx := [2] }).ep0Tx = [] := by decide
/-- R79: whichever packets full banks lose, those they keep stay in order. -/
theorem test_full_banks_keep_the_order :
    keepMarked [true, false, true] [1, 2, 3] = [1, 3] ∧ keepMarked [false, true] [1, 2, 3] = [2] := by
  decide
/-- R60, R63: a packet fills the second of two banks; the flag clears and the log has it. -/
theorem test_send_fills_a_bank :
    (fun t : State => (t.kbBanks, t.kbTx, t.kbRwal, t.txLog))
      (epSend .kb { up with kbBanks := [[1]], kbTx := [2] })
      = ([[1], [2]], [], false, [⟨3, [2]⟩]) := by decide
/-- R173: the packet of the example, `00 00`. -/
theorem test_get_status :
    after (fun t => (t.ctlPhase, t.txLog))
      (exec (.getStatus 0 0 2) { base with ctlPhase := .dataIn [0, 0] 0 2 2 0, ep0Txini := true })
      = some (.idle, [⟨0, [0, 0]⟩]) := by decide
/-- R174: the example: address 7 is written once the packet has left. -/
theorem test_set_address :
    after (fun t => (t.devAddr, t.addrEn, t.ctlPhase))
      (exec (.setAddress 7 0 0) { base with ctlPhase := .addrWait 7 0, ep0Txini := true })
      = some (7, true, .idle) := by decide
/-- R174: `wValue[15:7]` are ignored. -/
theorem test_set_address_masks :
    after (fun t => (t.ctlPhase, t.addrEn, t.txLog)) (exec (.setAddress 0xFF81 0 0) base)
      = some (.addrWait 1 0, false, [⟨0, []⟩]) := by decide
/-- R171: 34 bytes with `wlen = 9` are cut to 9. -/
theorem test_get_descriptor_device :
    after (fun t => t.ctlPhase) (exec (.getDescriptorDevice 0x0200 0 9) base)
      = some (.dataIn (Config.configurationDescriptor 3 1) 0 9 9 0) := by decide
/-- R226, R175: string 3 is absent and stalls. -/
theorem test_get_descriptor_missing :
    after (fun t => (t.ep0Stall, t.ctlPhase)) (exec (.getDescriptorDevice 0x0303 0x0409 255) base)
      = some (true, .idle) := by decide
/-- R171, R234: the HID report descriptor goes out in packets of 32 and 13: the second one. -/
theorem test_get_descriptor_interface :
    after (fun t => (t.ctlPhase, t.txLog))
      (exec (.getDescriptorInterface 0x2200 0 45) { base with
        ctlPhase := .dataIn Config.hidReportDescriptor 32 45 45 0, ep0Txini := true })
      = some (.idle,
        [⟨0, [0x15, 0x00, 0x25, 0x65, 0x05, 0x07, 0x19, 0x00, 0x29, 0x65, 0x81, 0x00, 0xC0]⟩]) := by
  decide
/-- R177: before `SET_CONFIGURATION(1)` the packet is `00`, after it `01`. -/
theorem test_get_configuration :
    after (fun t => t.ctlPhase) (exec (.getConfiguration 0 0 1) up)
      = some (.dataIn [1] 0 1 1 0) := by decide
/-- R178: the example. -/
theorem test_set_configuration :
    after (fun t => (t.configuration, t.txLog, t.kbCfg.enabled, t.kbRwal))
      (exec (.setConfiguration 1 0 0) base) = some (1, [⟨0, []⟩], true, true) := by decide
/-- R178: `wValue = 0x0101` stalls: the whole word is compared. -/
theorem test_set_configuration_0101 :
    after (fun t => (t.configuration, t.ep0Stall)) (exec (.setConfiguration 0x0101 0 0) base)
      = some (0, true) := by decide
/-- R191: an idle device returns eight zeros. -/
theorem test_get_report :
    after (fun t => t.ctlPhase) (exec (.getReport 0x0100 8) base)
      = some (.dataIn [0, 0, 0, 0, 0, 0, 0, 0] 0 8 8 0) := by decide
/-- R192: after reset, `7D`. -/
theorem test_get_idle :
    after (fun t => t.ctlPhase) (exec (.getIdle 0 1) base) = some (.dataIn [0x7D] 0 1 1 0) := by
  decide
/-- R194: after reset, `01`. -/
theorem test_get_protocol :
    after (fun t => t.ctlPhase) (exec (.getProtocol 0 1) base) = some (.dataIn [0x01] 0 1 1 0) := by
  decide
/-- R193: the high byte of `wValue`, the low one ignored. -/
theorem test_set_idle :
    after (fun t => (t.idleConfig, t.idleCount, t.txLog))
      (exec (.setIdle 0x0605 0) { base with idleCount := 9 }) = some (6, 0, [⟨0, []⟩]) := by decide
/-- R195: any byte is stored, the high byte of `wValue` ignored. -/
theorem test_set_protocol :
    after (fun t => t.protocol) (exec (.setProtocol 0x07FE 0) base) = some 0xFE := by decide
/-- R157: `SET_REPORT` stalls; HidState and the log stay. -/
theorem test_stall :
    after (fun t => (t.ep0Stall, t.txLog, t.configuration)) (exec (.stall 0x0001000002000921) up)
      = some (true, [], 1) := by decide
/-- R207 (b): a lock seen at the last read succeeds. -/
theorem test_usb_setup_last_poll :
    after (fun t => t.fg)
      (exec .usbSetup { base with fg := .usbSetup (.step3 2), pllLocked := true })
      = some (.usbSetup .step4) := by decide
/-- R207 (b): and without a lock gives up. -/
theorem test_usb_setup_gives_up :
    after (fun t => (t.fg, t.results)) (exec .usbSetup { base with fg := .usbSetup (.step3 2) })
      = some (.idle, [.usbSetup false]) := by decide
/-- R208: the key-down report of the example `SENDKEY 04 02`. -/
theorem test_send_keypress :
    after (fun t => (t.txLog, t.intEnable, t.fg))
      (exec (.sendKeypress 4 2) { up with
        modifierKeys := 2, keyboardKeys := up.keyboardKeys.set 0 4
        intEnable := false, fg := .send 4 2 (.t2 .first true 50) })
      = some ([⟨3, [2, 0, 4, 0, 0, 0, 0, 0]⟩], true, .send 4 2 .step4) := by decide
/-- R210: `frame_num = 250` gives the deadline 44. -/
theorem test_transmit_deadline :
    after (fun t => t.fg)
      (exec (.sendKeypress 4 2) { up with frameNum := 250, fg := .send 4 2 (.t1 .first) })
      = some (.send 4 2 (.t2 .first true 44)) := by decide
/-- R212: after reset false. -/
theorem test_has_configured :
    after (fun t => t.results) (exec .hasConfigured base) = some [.hasConfigured false] := by decide
/-- R73 (b), R249: at a hold of `A_EP` a scheduled call does nothing, `HAS_CONFIGURED` too. -/
theorem test_hold_shuts_calls_out :
    after (fun t => (t.results, t.sched)) (step { base with
      inHandler := true, ctlPhase := .addrWait 7 0, sched := [.issue .hasConfigured] })
      = some ([], []) := by decide
/-- R73 (d), R44: `ep0_rxstp` may become 1 while the SETUP interrupt is off; nothing is pending. -/
theorem test_rxstp_without_interrupt :
    (fun t : State => (t.ep0Rxstp, t.pendEp)) (applyEnv (.rxstp true) base) = (true, false) := by
  decide
/-- A word placed after reset is what the next step runs. -/
theorem test_fetch_word :
    after (fun t => (t.keyMask, t.inHandler)) (step (State.reset.withFetchWord 8 6))
      = some (0x30, false) := by decide

/-! ### States that meet the hypotheses of the statements

One theorem for each statement with hypotheses, named after it; one part for each of its clauses. -/

theorem test_meets_DecodeOfEncodeIsTheOperation :
    (∃ kbIf i f w, i.wf kbIf = true ∧ encode kbIf i = some (f, w) ∧ f = .k) ∧
    (∃ kbIf i f w, i.wf kbIf = true ∧ encode kbIf i = some (f, w) ∧
      i = .stall (BitVec.allOnes 64)) ∧
    (∃ kbIf i f w, i.wf kbIf = true ∧ encode kbIf i = some (f, w) ∧
      w = 0xFFFFFFFFFFFF0B21 ∧ kbIf = 0xFFFF) :=
  ⟨⟨0, .tick 7, .k, 7, by decide⟩,
    ⟨0, .stall (BitVec.allOnes 64), .s, BitVec.allOnes 64, by decide⟩,
    ⟨0xFFFF, .setProtocol 0xFFFF 0xFFFF, .s, 0xFFFFFFFFFFFF0B21, by decide⟩⟩

theorem test_meets_DispatchFollowsMaskAndMatch :
    (∃ row, (setupRows 0)[0]? = some row ∧ (0x80 : Setup64) &&& row.mask = row.pattern) ∧
    (∃ row, (setupRows 0)[10]? = some row ∧ (0x0B21 : Setup64) &&& row.mask = row.pattern) ∧
    (∀ row ∈ setupRows 0, (0x0921 : Setup64) &&& row.mask ≠ row.pattern) :=
  ⟨⟨⟨0xFFFF, 0x80⟩, by decide⟩, ⟨⟨0x0000FFFF0000FFFF, 0x0B21⟩, by decide⟩, by decide⟩

theorem test_meets_DispatchRowsAreExclusive :
    ∃ row, (setupRows 0)[3]? = some row ∧ (0x0681 : Setup64) &&& row.mask = row.pattern :=
  ⟨⟨0xFFFF, 0x0681⟩, by decide⟩

/-- A state in which every handler is pending and may start. -/
def ready : State :=
  { up with
    pendTick := true, pendGen := true, pendEp := true, causeEorst := true, causeSof := true
    ep0Rxstp := true }

theorem test_meets_StartedHandlerRunsItsOperations :
    (∃ s : State, s.intEnable = true ∧ s.inHandler = false ∧ s.pendTick = true ∧
      s.sched = [.start .tick]) ∧
    (∃ s : State, s.intEnable = true ∧ s.inHandler = false ∧ s.pendGen = true ∧
      s.sched = [.start .gen]) ∧
    (∃ s : State, s.intEnable = true ∧ s.inHandler = false ∧ s.pendEp = true ∧
      s.sched = [.start .ep]) :=
  ⟨⟨{ ready with sched := [.start .tick] }, by decide⟩,
    ⟨{ ready with sched := [.start .gen] }, by decide⟩,
    ⟨{ ready with sched := [.start .ep] }, by decide⟩⟩

theorem test_meets_ServedRequestIsTheDecodedWord :
    ∃ s : State, s.inHandler = true ∧ s.sched = [.advance] :=
  ⟨{ up with inHandler := true, sched := [.advance] }, by decide⟩

theorem test_meets_ForegroundStepRunsItsCommand :
    (∃ s : State, s.inHandler = false ∧ s.fg = .idle ∧ s.sched = [.issue .kpTake]) ∧
    (∃ s : State, s.inHandler = false ∧ s.fg.command = some .kpTake ∧ s.sched = [.fg]) :=
  ⟨⟨{ up with sched := [.issue .kpTake] }, by decide⟩,
    ⟨{ up with fg := .kpTake 0, sched := [.fg] }, by decide⟩⟩

theorem test_meets_EmptyScheduleDrawsTheMove : base.sched = [] := by decide

theorem test_meets_RunningHandlerShutsOthersOut :
    (∃ s : State, s.inHandler = true ∧ s.sched = [.start .tick]) ∧
    (∃ s : State, s.inHandler = true ∧ s.sched = [.fg]) ∧
    (∃ s : State, s.inHandler = true ∧ s.sched = [.issue .hasConfigured]) :=
  ⟨⟨{ ready with inHandler := true, sched := [.start .tick] }, by decide⟩,
    ⟨{ ready with inHandler := true, sched := [.fg] }, by decide⟩,
    ⟨{ ready with inHandler := true, sched := [.issue .hasConfigured] }, by decide⟩⟩

theorem test_meets_DisabledInterruptsHoldHandlersBack :
    ∃ s : State, s.intEnable = false ∧ s.sched = [.start .ep] ∧ s.pendEp = true :=
  ⟨{ ready with intEnable := false, sched := [.start .ep] }, by decide⟩

theorem test_meets_DeliveredPacketIsServed :
    ∃ s : State, s.ep0Cfg.rxstpIntEn = true ∧ s.pendEp = false ∧ s.inHandler = false ∧
      s.intEnable = true ∧ s.sched = [.env (.setup 0x80), .start .ep] :=
  ⟨{ up with ep0Cfg := ep0CfgAfterReset, sched := [.env (.setup 0x80), .start .ep] }, by decide⟩

theorem test_meets_TickFollowsTheClosedForm :
    ∃ s : State, s.keyMask.extractLsb' 6 2 = 0 ∧ s.keyMask = 0x3F :=
  ⟨{ base with keyMask := 0x3F }, by decide⟩

theorem test_meets_TickKeyOrderIsIrrelevant : [2, 0, 1].Perm [0, 1, 2] := by decide

theorem test_meets_GestureEmitsTheOrOnce :
    ∃ (samples : List (BitVec 3)) (s : State), s.keyMask = 0 ∧ samples ≠ [] ∧
      ∀ v ∈ samples, v ≠ 0 :=
  ⟨[4, 6, 2], base, by decide⟩

theorem test_meets_KpTakeReadsThenClears :
    (∃ s : State, s.inHandler = false ∧ s.fg = .idle) ∧
    (∃ s : State, s.inHandler = false ∧ s.fg = .kpTake 6) ∧
    (∃ s : State, s.inHandler = false ∧ s.fg = .kpTake 0) :=
  ⟨⟨base, by decide⟩, ⟨{ base with fg := .kpTake 6 }, by decide⟩,
    ⟨{ base with fg := .kpTake 0 }, by decide⟩⟩

/-- `A_TICK` about to close a gesture, with this in the cell. -/
def closing (cell : BitVec 3) : State :=
  { up with keyMask := 0x14, kpCell := cell, pendTick := true, sched := [.start .tick] }

theorem test_meets_OnlyAnEmissionFillsTheCell :
    (∃ (s t : State), exec (.tick 0) s = .next t ∧ s.kpCell = 0 ∧ t.kpCell ≠ 0) ∧
    (∃ (s t : State), step s = .next t ∧ s.kpCell = 0 ∧ t.kpCell ≠ 0) :=
  ⟨⟨{ base with keyMask := 0x14 }, { base with kpCell := 6 }, rfl, by decide⟩,
    ⟨closing 0, _, rfl, by decide⟩⟩

theorem test_meets_OverrunIsStickyAndHonest :
    (∃ (s t : State), step s = .next t ∧ s.kpOverrun = true) ∧
    (∃ (s t : State), exec (.tick 0) s = .next t ∧ s.kpOverrun = false ∧ t.kpOverrun = true) ∧
    (∃ (s t : State), step s = .next t ∧ s.kpOverrun = false ∧ t.kpOverrun = true) :=
  ⟨⟨{ base with kpOverrun := true, sched := [.fg] }, { base with kpOverrun := true }, rfl, rfl⟩,
    ⟨{ base with keyMask := 0x14, kpCell := 1 }, { base with kpCell := 6, kpOverrun := true },
      rfl, by decide⟩,
    ⟨closing 1, _, rfl, by decide⟩⟩

theorem test_meets_TheTwoHalvesShareNoRegister :
    (∃ (s t : State), exec (.tick 1) s = .next t ∧ isKcd (.tick 1) = true) ∧
    (∃ (s t : State), exec .giSof s = .next t ∧ isKcd .giSof = false) :=
  ⟨⟨base, { base with keyMask := 8 }, rfl, rfl⟩, ⟨base, base, rfl, rfl⟩⟩

theorem test_meets_HidEngineCannotSeeTheKeyDecoder : isKcd .giSof = false := by decide

theorem test_meets_EndOfResetRestoresTheSession :
    (∃ s : State, s.cfg.eorstResetScope = .all) ∧
    (∃ s : State, s.cfg.eorstResetScope = .configurationOnly ∧ s.cfg.sofDivReset = .withHidState) ∧
    (∃ s : State, s.cfg.eorstResetScope = .configurationOnly ∧ s.cfg.sofDivReset = .always) :=
  ⟨⟨base, by decide⟩,
    ⟨{ base with cfg := { params with eorstResetScope := .configurationOnly } }, by decide⟩,
    ⟨{ base with
        cfg := { params with eorstResetScope := .configurationOnly, sofDivReset := .always } },
      by decide⟩⟩

theorem test_meets_StartOfFrameDrivesTheIdleTimer :
    (∃ s : State, s.configuration = 0) ∧ (∃ s : State, s.idleConfig = 0) ∧
    (∃ s : State, s.configuration ≠ 0 ∧ s.idleConfig ≠ 0 ∧ s.sofDiv ≠ 3) ∧
    (∃ s : State, s.configuration ≠ 0 ∧ s.idleConfig ≠ 0 ∧ s.sofDiv = 3 ∧ s.kbRwal = false) ∧
    (∃ s : State, s.configuration ≠ 0 ∧ s.idleConfig ≠ 0 ∧ s.sofDiv = 3 ∧ s.kbRwal = true ∧
      s.idleCount + 1 ≠ s.idleConfig) ∧
    (∃ s : State, s.configuration ≠ 0 ∧ s.idleConfig ≠ 0 ∧ s.sofDiv = 3 ∧ s.kbRwal = true ∧
      s.idleCount + 1 = s.idleConfig) :=
  ⟨⟨base, by decide⟩, ⟨{ up with idleConfig := 0 }, by decide⟩, ⟨up, by decide⟩,
    ⟨{ up with sofDiv := 3, kbRwal := false }, by decide⟩, ⟨{ up with sofDiv := 3 }, by decide⟩,
    ⟨{ up with sofDiv := 3, idleCount := 124 }, by decide⟩⟩

theorem test_meets_IdlePeriodIsFourFramesPerUnit :
    up.configuration ≠ 0 ∧ up.idleConfig ≠ 0 ∧ up.idleCount = 0 ∧ up.sofDiv = 0 ∧
    up.kbRwal = true := by decide

theorem test_meets_EpIntParsesTheSetupPacket :
    ∃ s : State, s.ep0Rx = [1, 2, 3, 4, 5, 6, 7, 8] :=
  ⟨{ base with ep0Rx := [1, 2, 3, 4, 5, 6, 7, 8] }, by decide⟩

theorem test_meets_InRequestsStartTheirReply : base.ctlPhase = .idle := by decide

theorem test_meets_GetDescriptorStreamsTheEntryOrStalls :
    base.ctlPhase = .idle ∧
    base.cfg.descTable.entry 0x2100 = some [0x09, 0x21, 0x11, 0x01, 0x00, 0x01, 0x22, 0x2D, 0x00] ∧
    base.cfg.descTable.entry 0xFFFF = none := by decide

/-- At a hold of a data stage of two bytes, `polls` polls made. -/
def atHold (polls : Nat) : State := { base with ctlPhase := .dataIn [1, 2] 0 2 2 polls }

theorem test_meets_DataStagePollSendsOnePacket :
    (∃ s : State, s.ctlPhase = .dataIn [1, 2] 0 2 2 0 ∧
      (∀ ceiling, s.cfg.ctrlWaitCeiling = some ceiling → 0 < ceiling) ∧ s.ep0Rxout = true) ∧
    (∃ s : State, s.ctlPhase = .dataIn [1, 2] 0 2 2 0 ∧
      (∀ ceiling, s.cfg.ctrlWaitCeiling = some ceiling → 0 < ceiling) ∧ s.ep0Rxout = false ∧
      s.ep0Txini = false) ∧
    (∃ s : State, s.ctlPhase = .dataIn [1, 2] 0 2 2 1 ∧ s.cfg.ctrlWaitCeiling = some 2 ∧
      (∀ ceiling, s.cfg.ctrlWaitCeiling = some ceiling → 1 < ceiling) ∧ s.ep0Rxout = false ∧
      s.ep0Txini = true) :=
  ⟨⟨{ atHold 0 with ep0Rxout := true }, rfl, nofun, rfl⟩,
    ⟨atHold 0, rfl, nofun, rfl, rfl⟩,
    ⟨{ atHold 1 with cfg := { params with ctrlWaitCeiling := some 2 }, ep0Txini := true }, rfl, rfl,
      (by intro _ h; cases h; decide), rfl, rfl⟩⟩

theorem test_meets_FiniteCeilingAbandonsTheStage :
    (∃ s : State, s.ctlPhase = .dataIn [1, 2] 0 2 2 2 ∧ s.cfg.ctrlWaitCeiling = some 2 ∧ 2 ≤ 2) ∧
    (∃ s : State, s.ctlPhase = .dataIn [1, 2] 0 2 2 1 ∧ s.cfg.ctrlWaitCeiling = some 2 ∧ 1 < 2 ∧
      s.ep0Rxout = false ∧ s.ep0Txini = false) :=
  ⟨⟨{ atHold 2 with cfg := { params with ctrlWaitCeiling := some 2 } }, by decide⟩,
    ⟨{ atHold 1 with cfg := { params with ctrlWaitCeiling := some 2 } }, by decide⟩⟩

/-- The HID report descriptor asked for whole, two packets (R234), with a packet of an earlier stage
in the bank. -/
def asked (bm : Byte) : State :=
  { base with
    setupPkt := ⟨bm, 0x06, 0x2200, 0, 45⟩, inHandler := true, ep0Banks := [[1]]
    sched := .advance ::
      (hostLifts (dataStagePackets Config.hidReportDescriptor 45).length ++ []) }

theorem test_meets_DescriptorArrivesInChunks :
    ∀ bm ∈ [(0x80 : Byte), 0x81], ∃ s : State, s.setupPkt = ⟨bm, 0x06, 0x2200, 0, 45⟩ ∧
      s.cfg.descTable.entry 0x2200 = some Config.hidReportDescriptor ∧
      s.cfg.ctrlWaitCeiling = none ∧ s.inHandler = true ∧ s.ctlPhase = .idle ∧
      s.ep0Rxout = false ∧ s.ep0Tx = [] ∧ s.ep0Banks.length ≤ 1 ∧
      s.sched = .advance ::
        (hostLifts (dataStagePackets Config.hidReportDescriptor 45).length ++ []) :=
  fun bm _ => ⟨asked bm, rfl, show params.descTable.entry 0x2200 = _ by decide, rfl, rfl, rfl, rfl,
    rfl, Nat.le_refl 1, rfl⟩

/-- R171's examples of `SendControlData`: the packet lengths it gives for each. -/
theorem test_data_stage_packets :
    (dataStagePackets (List.replicate 64 0) 255).map List.length = [32, 32, 0] ∧
    (dataStagePackets (List.replicate 64 0) 64).map List.length = [32, 32] ∧
    (dataStagePackets (List.replicate 45 0) 32).map List.length = [32] ∧
    (dataStagePackets (List.replicate 34 0) 255).map List.length = [32, 2] ∧
    (dataStagePackets (List.replicate 18 0) 0).map List.length = [0] := by decide

/-- `SET_ADDRESS` at its hold. -/
def atAddressHold (polls : Nat) : State := { base with ctlPhase := .addrWait 7 polls }

theorem test_meets_SetAddressWaitsForItsPacket :
    (∃ s : State, s.ctlPhase = .idle) ∧
    (∃ s : State, s.ctlPhase = .addrWait 7 0 ∧ s.ep0Txini = true) ∧
    (∃ s : State, s.ctlPhase = .addrWait 7 0 ∧ s.ep0Txini = false ∧ s.cfg.ctrlWaitCeiling = none) ∧
    (∃ s : State, s.ctlPhase = .addrWait 7 0 ∧ s.ep0Txini = false ∧
      s.cfg.ctrlWaitCeiling = some 1 ∧ 0 < 1) ∧
    (∃ s : State, s.ctlPhase = .addrWait 7 1 ∧ s.ep0Txini = false ∧
      s.cfg.ctrlWaitCeiling = some 1 ∧ 1 ≤ 1) :=
  ⟨⟨base, by decide⟩, ⟨{ atAddressHold 0 with ep0Txini := true }, by decide⟩,
    ⟨atAddressHold 0, by decide⟩,
    ⟨{ atAddressHold 0 with cfg := { params with ctrlWaitCeiling := some 1 } }, by decide⟩,
    ⟨{ atAddressHold 1 with cfg := { params with ctrlWaitCeiling := some 1 } }, by decide⟩⟩

theorem test_meets_SetConfigurationValidatesTheValue :
    base.ctlPhase = .idle ∧ (1 : Half) = 1 ∧ (0x0101 : Half) ≠ 1 := by decide

/-- `USB_SETUP` standing at a step. -/
def atSetup (pos : SetupPos) : State := { base with fg := .usbSetup pos }

theorem test_meets_UsbSetupTakesItsSteps :
    (∃ s : State, s.inHandler = false ∧ s.fg = .idle ∧ s.attached = false) ∧
    (∃ s : State, s.inHandler = false ∧ s.fg = .usbSetup .step2) ∧
    (∃ s : State, s.inHandler = false ∧ s.fg = .usbSetup (.step3 2) ∧ 2 < s.cfg.pllLockCeiling ∧
      s.pllLocked = true) ∧
    (∃ s : State, s.inHandler = false ∧ s.fg = .usbSetup (.step3 1) ∧
      1 + 1 < s.cfg.pllLockCeiling ∧ s.pllLocked = false) ∧
    (∃ s : State, s.inHandler = false ∧ s.fg = .usbSetup (.step3 2) ∧
      2 + 1 = s.cfg.pllLockCeiling ∧ s.pllLocked = false) ∧
    (∃ s : State, s.inHandler = false ∧ s.fg = .usbSetup .step4) ∧
    (∃ s : State, s.inHandler = false ∧ s.fg = .usbSetup .step5) ∧
    (∃ s : State, s.inHandler = false ∧ s.fg = .usbSetup .step6) :=
  ⟨⟨base, by decide⟩, ⟨atSetup .step2, by decide⟩,
    ⟨{ atSetup (.step3 2) with pllLocked := true }, by decide⟩, ⟨atSetup (.step3 1), by decide⟩,
    ⟨atSetup (.step3 2), by decide⟩, ⟨atSetup .step4, by decide⟩, ⟨atSetup .step5, by decide⟩,
    ⟨atSetup .step6, by decide⟩⟩

theorem test_meets_BringUpFailsAfterTheCeiling :
    ∃ s : State, s.inHandler = false ∧ s.fg = .idle ∧ s.attached = false ∧ s.pllLocked = false ∧
      1 ≤ s.cfg.pllLockCeiling ∧
      s.sched = .issue .usbSetup :: (List.replicate (1 + s.cfg.pllLockCeiling) .fg ++ []) :=
  ⟨{ base with sched := [.issue .usbSetup, .fg, .fg, .fg, .fg] }, by decide⟩

theorem test_meets_BringUpSucceedsWhenLocked :
    ∃ s : State, s.inHandler = false ∧ s.fg = .idle ∧ s.attached = false ∧ s.pllLocked = true ∧
      1 ≤ s.cfg.pllLockCeiling ∧
      s.sched = .issue .usbSetup :: .fg :: .fg :: .fg :: .fg :: .fg :: [] :=
  ⟨{ base with pllLocked := true, sched := [.issue .usbSetup, .fg, .fg, .fg, .fg, .fg] },
    by decide⟩

/-- `SEND_KEYPRESS(4, 2)` standing at a step. -/
def atSend (pos : SendPos) : State := { up with fg := .send 4 2 pos }

theorem test_meets_SendKeypressWritesByteByByte :
    (∃ s : State, s.inHandler = false ∧ s.fg = .idle) ∧
    (∃ s : State, s.inHandler = false ∧ s.fg = .send 4 2 .step2) ∧
    (∃ s : State, s.inHandler = false ∧ s.fg = .send 4 2 .step4) ∧
    (∃ s : State, s.inHandler = false ∧ s.fg = .send 4 2 .step5) :=
  ⟨⟨up, by decide⟩, ⟨atSend .step2, by decide⟩, ⟨atSend .step4, by decide⟩,
    ⟨atSend .step5, by decide⟩⟩

theorem test_meets_TransmitPollsInsideItsWindow :
    (∃ s : State, s.inHandler = false ∧ s.fg = .send 4 2 (.t0 .first) ∧ s.configuration ≠ 0) ∧
    (∃ s : State, s.inHandler = false ∧ s.fg = .send 4 2 (.t1 .second)) ∧
    (∃ s : State, s.inHandler = false ∧ s.fg = .send 4 2 (.t2 .first true 50) ∧
      s.kbRwal = false) ∧
    (∃ s : State, s.inHandler = false ∧ s.fg = .send 4 2 (.t3 .first true 50)) ∧
    (∃ s : State, s.inHandler = false ∧ s.fg = .send 4 2 (.t4 .first 50) ∧
      s.configuration ≠ 0) ∧
    (∃ s : State, s.inHandler = false ∧ s.fg = .send 4 2 (.t5 .first 50) ∧
      s.frameNum % 2 ^ s.cfg.frameW ≠ 50) ∧
    (∃ s : State, s.inHandler = false ∧ s.fg = .send 4 2 (.t6 .first 50)) :=
  ⟨⟨atSend (.t0 .first), by decide⟩, ⟨atSend (.t1 .second), by decide⟩,
    ⟨{ atSend (.t2 .first true 50) with kbRwal := false }, by decide⟩,
    ⟨atSend (.t3 .first true 50), by decide⟩, ⟨atSend (.t4 .first 50), by decide⟩,
    ⟨{ atSend (.t5 .first 50) with frameNum := 49 }, by decide⟩,
    ⟨atSend (.t6 .first 50), by decide⟩⟩

theorem test_meets_TransmitPushesWhenReady :
    (∃ s : State, s.inHandler = false ∧ s.kbRwal = true ∧
      s.fg = .send 4 2 (.t2 .first true 50)) ∧
    (∃ s : State, s.inHandler = false ∧ s.kbRwal = true ∧
      s.fg = .send 4 2 (.t2 .second true 50)) :=
  ⟨⟨atSend (.t2 .first true 50), by decide⟩, ⟨atSend (.t2 .second true 50), by decide⟩⟩

theorem test_meets_TransmitFailureEndsTheCommand :
    (∃ s : State, s.inHandler = false ∧ s.cfg.sendFailPolicy = .keep ∧
      s.fg = .send 4 2 (.t0 .first) ∧ s.configuration = 0) ∧
    (∃ s : State, s.inHandler = false ∧ s.cfg.sendFailPolicy = .keep ∧
      s.fg = .send 4 2 (.t4 .second 50) ∧ s.configuration = 0) ∧
    (∃ s : State, s.inHandler = false ∧ s.cfg.sendFailPolicy = .keep ∧
      s.fg = .send 4 2 (.t5 .first 44) ∧ s.frameNum % 2 ^ s.cfg.frameW = 44) :=
  ⟨⟨{ atSend (.t0 .first) with configuration := 0 }, by decide⟩,
    ⟨{ atSend (.t4 .second 50) with configuration := 0 }, by decide⟩,
    ⟨{ atSend (.t5 .first 44) with frameNum := 300 }, by decide⟩⟩

theorem test_meets_SendKeypressSendsKeyDownThenKeyUp :
    ∃ s : State, s.inHandler = false ∧ s.fg = .idle ∧ s.configuration ≠ 0 ∧ s.sendPhase = .none ∧
      s.keyboardKeys.toList.tail = [0, 0, 0, 0, 0] ∧ s.kbTx = [] ∧
      1 ≤ s.cfg.kbEpBanks ∧ s.kbBanks.length = s.cfg.kbEpBanks ∧
      s.sched = .issue (.sendKeypress 4 2) :: .fg :: .fg :: .fg :: .env (.collect .kb) ::
        .env (.kbRwal true) :: .fg :: .fg :: .fg :: .fg :: .fg :: .env (.collect .kb) ::
        .env (.kbRwal true) :: .fg :: [] :=
  ⟨{ up with
      kbBanks := [[1], [2]]
      sched := [.issue (.sendKeypress 4 2), .fg, .fg, .fg, .env (.collect .kb), .env (.kbRwal true),
        .fg, .fg, .fg, .fg, .fg, .env (.collect .kb), .env (.kbRwal true), .fg] }, by decide⟩

theorem test_meets_TransmitGivesUpAfterFiftyFrames :
    ∀ n : TxOrd, ∃ s : State, s.inHandler = false ∧ s.fg = .send 4 2 (.t1 n) ∧
      s.configuration ≠ 0 ∧ s.kbRwal = false ∧ s.cfg.sendFailPolicy = .keep ∧ 6 ≤ s.cfg.frameW ∧
      s.sched = [.fg, .fg, .fg] ++
        ((List.replicate 49 [Choice.env .sof, .fg, .fg, .fg, .fg, .fg]).flatten ++
          (.env .sof :: .fg :: .fg :: [])) :=
  fun n => ⟨{ atSend (.t1 n) with
      kbRwal := false
      sched := [.fg, .fg, .fg] ++
        ((List.replicate 49 [Choice.env .sof, .fg, .fg, .fg, .fg, .fg]).flatten ++
          (.env .sof :: .fg :: .fg :: [])) },
    rfl, rfl, show (1 : Byte) ≠ 0 by decide, rfl, rfl, show 6 ≤ 8 by decide, rfl⟩

theorem test_meets_HasConfiguredReadsTheConfiguration :
    (∃ s : State, s.fg = .idle) ∧ (∃ s : State, s.inHandler = true ∧ s.fg ≠ .idle) :=
  ⟨⟨base, by decide⟩, ⟨{ base with inHandler := true, fg := .kpTake 0 }, by decide⟩⟩

theorem test_meets_UnspecifiedCallsAreRefused :
    (∃ s : State, s.inHandler = true) ∧
    (∃ s : State, s.inHandler = false ∧ s.fg = .idle ∧ s.attached = true) ∧
    (∃ s : State, s.inHandler = false ∧ s.fg ≠ .idle ∧ s.sched = [.issue .kpTake]) :=
  ⟨⟨{ base with inHandler := true }, by decide⟩, ⟨{ base with attached := true }, by decide⟩,
    ⟨{ atSetup .step2 with sched := [.issue .kpTake] }, by decide⟩⟩

theorem test_meets_StepKeepsTheInvariant :
    ∃ (s t : State), MachineInv s ∧ step s = .next t ∧ t.pendTick = true :=
  ⟨{ base with sched := [.env .tick] }, { base with pendTick := true },
    ⟨by decide, by decide, by decide, by decide, by decide, by decide, by decide, by decide,
      by decide, by decide, by decide, by decide, by decide, by decide, by decide⟩, rfl, rfl⟩

theorem test_meets_TransmitLogOnlyGrows :
    ∃ (s t : State), step s = .next t ∧ t.txLog ≠ s.txLog :=
  ⟨{ up with sched := [.advance], inHandler := true, setupPkt := ⟨0, 9, 1, 0, 0⟩ }, _, rfl,
    by decide⟩

theorem test_meets_DefaultTableMeetsItsConstraints :
    Config.strManufacturer.length ≤ 126 ∧ (List.replicate 126 (0x41 : Half)).length ≤ 126 :=
  ⟨by decide, by simp⟩

theorem test_meets_DescriptorRomIsConstant : ∃ (s t : State), step s = .next t :=
  ⟨{ base with sched := [.fg] }, base, rfl⟩

theorem test_meets_OnlyTwoOperationsWriteConfiguration :
    (∃ (s t : State), exec .giEorst s = .next t ∧ t.configuration ≠ s.configuration) ∧
    (∃ (s t : State), exec (.setConfiguration 1 0 0) s = .next t ∧
      t.configuration ≠ s.configuration) ∧
    (∃ (s t : State), step s = .next t ∧ t.configuration ≠ s.configuration ∧
      s.sched = [.start .gen]) ∧
    (∃ (s t : State), step s = .next t ∧ t.configuration ≠ s.configuration ∧
      s.sched = [.advance]) :=
  ⟨⟨up, _, rfl, by decide⟩, ⟨base, _, rfl, by decide⟩,
    ⟨{ up with pendGen := true, causeEorst := true, sched := [.start .gen] }, _, rfl, by decide, rfl⟩,
    ⟨{ base with inHandler := true, setupPkt := ⟨0, 9, 1, 0, 0⟩, sched := [.advance] }, _, rfl,
      by decide, rfl⟩⟩

theorem test_meets_OnlyTheWindowMovesIntEnable :
    (∃ (s t : State), exec (.sendKeypress 4 2) s = .next t ∧ t.intEnable ≠ s.intEnable ∧
      s.intEnable = true) ∧
    (∃ (s t : State), exec (.sendKeypress 4 2) s = .next t ∧ t.intEnable ≠ s.intEnable ∧
      s.intEnable = false) :=
  ⟨⟨atSend (.t1 .first), _, rfl, by decide⟩,
    ⟨{ atSend (.t3 .first true 50) with intEnable := false }, _, rfl, by decide⟩⟩

theorem test_meets_OnlySetAddressWritesTheAddress :
    ∃ (s t : State), exec (.setAddress 7 0 0) s = .next t ∧ t.devAddr ≠ s.devAddr :=
  ⟨{ atAddressHold 0 with ep0Txini := true }, _, rfl, by decide⟩

theorem test_meets_ProtocolHasNoOtherEffect :
    (∀ v l, Instr.giSof ≠ .getProtocol v l) ∧ (∀ v l, Instr.giSof ≠ .setProtocol v l) ∧
    Instr.giSof ≠ .giEorst :=
  ⟨(by intro _ _ h; cases h), (by intro _ _ h; cases h), by decide⟩

theorem test_meets_PacketsFillAndLeaveTheBanks :
    (∃ s : State, s.ep0Banks = [] ∧ s.ep0Tx ≠ []) ∧
    (∃ s : State, s.kbBanks.length < s.cfg.kbEpBanks ∧ s.kbBanks = [[1]]) ∧
    (∃ s : State, s.ep0Banks = [1] :: []) ∧ (∃ s : State, s.kbBanks = [1] :: [[2]]) ∧
    (∃ s : State, s.kbBanks = []) :=
  ⟨⟨{ base with ep0Tx := [1] }, by decide⟩, ⟨{ base with kbBanks := [[1]] }, by decide⟩,
    ⟨{ base with ep0Banks := [[1]] }, rfl⟩, ⟨{ base with kbBanks := [[1], [2]] }, rfl⟩,
    ⟨base, rfl⟩⟩

theorem test_meets_EnvironmentOwnsNoRegister :
    (∃ (s t : State), s.sched = [.env .eorst] ∧ step s = .next t ∧ t.devAddr ≠ s.devAddr) ∧
    (∃ (s t : State), s.sched = [.env (.setup 0)] ∧ step s = .next t ∧ t.ep0Stall ≠ s.ep0Stall) ∧
    (∃ (s t : State), s.sched = [.env .enableInt] ∧ step s = .next t ∧
      t.intEnable ≠ s.intEnable) ∧
    (∃ (s t : State), s.sched = [.env .sof] ∧ step s = .next t ∧ s.causeSof = true) :=
  ⟨⟨{ base with devAddr := 7, sched := [.env .eorst] }, _, rfl, rfl, by decide⟩,
    ⟨{ base with
        ep0Cfg := ep0CfgAfterReset, ep0Stall := true, sched := [.env (.setup 0)] },
      _, rfl, rfl, by decide⟩,
    ⟨{ base with sched := [.env .enableInt] }, _, rfl, rfl, by decide⟩,
    ⟨{ base with causeSof := true, sched := [.env .sof] }, _, rfl, rfl, rfl⟩⟩

end Sys2Proof.Tests
end

section
/-! SUPPORT. The banks of the endpoints (R12, R48), one side of the endpoint at a time. -/

namespace Sys2Proof.Machine

variable (s : State)

/-- All that `EpSend(0)` changes while EP0's one bank is free. -/
theorem epSend_ep0_of_free (h : s.ep0Banks = []) :
    epSend .ep0 s =
      { s with
        txLog := s.txLog ++ [⟨0, s.ep0Tx⟩], ep0Tx := [], ep0Banks := [s.ep0Tx]
        ep0Txini := false } := by
  rw [← ep0Filled_of_empty s h]
  rfl

/-- All that `EpSend(KB_EP)` changes while one of its `KB_EP_BANKS` banks is free. -/
theorem epSend_kb_of_free (h : s.kbBanks.length < s.cfg.kbEpBanks) :
    epSend .kb s =
      { s with
        txLog := s.txLog ++ [⟨s.cfg.kbEp, s.kbTx⟩], kbTx := [], kbBanks := s.kbBanks ++ [s.kbTx]
        kbRwal := false } := by
  have hfill : s.kbFilled s.kbTx = s.kbBanks ++ [s.kbTx] := fillBank_of_room h
  rw [← hfill]
  rfl

/-- The host takes the oldest packet of an endpoint, and the ready flag reads 1 (R48, R108). -/
theorem collectPacket_ep0_cons {p : List Byte} {rest : List (List Byte)}
    (h : s.ep0Banks = p :: rest) :
    collectPacket .ep0 s = { s with ep0Banks := rest, ep0Txini := true } := by
  simp [collectPacket, h]

theorem collectPacket_kb_cons {p : List Byte} {rest : List (List Byte)}
    (h : s.kbBanks = p :: rest) :
    collectPacket .kb s = { s with kbBanks := rest, kbRwal := true } := by
  simp [collectPacket, h]

/-- With no packet standing there, a collect does nothing (log entry 7). -/
theorem collectPacket_ep0_nil (h : s.ep0Banks = []) : collectPacket .ep0 s = s := by
  simp [collectPacket, h]

theorem collectPacket_kb_nil (h : s.kbBanks = []) : collectPacket .kb s = s := by
  simp [collectPacket, h]

/-- Settles O59, endpoint by endpoint: what `EpSend` leaves with a bank free, which packets stand in
the banks in any case, what a collect leaves. -/
theorem packetsFillAndLeaveTheBanks : Obligations.PacketsFillAndLeaveTheBanks := fun s =>
  ⟨epSend_ep0_of_free s, epSend_kb_of_free s,
    fillBank_sublist _ _ _ _, fillBank_length_le _ _ _ _,
    fillBank_sublist _ _ _ _, fillBank_length_le _ _ _ _,
    fun _ _ => collectPacket_ep0_cons s, collectPacket_ep0_nil s,
    fun _ _ => collectPacket_kb_cons s, collectPacket_kb_nil s⟩

end Sys2Proof.Machine
end

section
/-! SUPPORT. `tx_log` is append-only (R47): every operation and every step leaves the log of before
at the start of the log after. -/

namespace Sys2Proof.Machine

variable {s t : State}

theorem RequestStep.txLog_grows (h : RequestStep s t) : s.txLog <+: t.txLog := by
  rcases h with ⟨_, _, rfl⟩ | ⟨_, _, _, _, _, _, rfl | ⟨_, rfl⟩ | ⟨_, _, rfl⟩⟩ <;> simp

theorem getDescriptor_txLog_grows {v l : Half} (h : getDescriptor v l s = .next t) :
    s.txLog <+: t.txLog := by
  rcases getDescriptor_cases h with rfl | h
  · simp
  · exact h.txLog_grows

theorem execUsbSetup_txLog (h : execUsbSetup s = .next t) : t.txLog = s.txLog := by
  rcases (execUsbSetup_cases h).2 with
    ⟨_, _, rfl⟩ | ⟨_, rfl⟩ | ⟨_, _, rfl | ⟨_, rfl⟩ | rfl⟩ | ⟨_, rfl⟩ | ⟨_, rfl⟩ | ⟨_, rfl⟩ <;> rfl

/-- `SEND_KEYPRESS` commits a report at `t2` of a transmit; its other steps commit nothing. -/
theorem execSendKeypress_txLog_grows {key mod : Byte} (h : execSendKeypress key mod s = .next t) :
    s.txLog <+: t.txLog := by
  rcases (execSendKeypress_cases h).2 with
    ⟨_, rfl⟩ | ⟨_, rfl⟩ | ⟨_, _, ⟨_, rfl⟩ | ⟨_, ⟨_, rfl⟩ | ⟨_, rfl⟩⟩⟩ | ⟨_, _, rfl⟩ |
    ⟨_, _, _, _, ⟨_, rfl⟩ | ⟨_, _, _, _, rfl⟩⟩ | ⟨_, _, _, _, rfl⟩ |
    ⟨_, _, _, ⟨_, rfl⟩ | ⟨_, ⟨_, rfl⟩ | ⟨_, rfl⟩⟩⟩ |
    ⟨_, _, _, ⟨_, rfl⟩ | ⟨_, ⟨_, rfl⟩ | ⟨_, rfl⟩⟩⟩ | ⟨_, _, _, rfl⟩ | ⟨_, rfl⟩ | ⟨_, rfl⟩ <;>
  simp

/-- Every operation extends the log: the packets it commits stand behind those of before. -/
theorem exec_txLog_grows (i : Instr) (h : exec i s = .next t) : s.txLog <+: t.txLog := by
  cases i <;> simp only [exec] at h
  case tick => rcases execTick_cases h with ⟨_, rfl⟩ | ⟨_, rfl⟩ <;> simp
  case kpTake => rcases execKpTake_cases h with ⟨_, ⟨_, rfl⟩ | ⟨_, _, rfl⟩⟩ <;> simp
  case giEorst => rcases execGiEorst_cases h with ⟨_, rfl⟩ | ⟨_, rfl⟩ <;> simp
  case giSof =>
    rcases execGiSof_cases h with rfl | ⟨_, rfl | ⟨_, _, _, rfl⟩ | ⟨_, _, _, rfl⟩⟩ <;> simp
  case epInt => rcases execEpInt_cases h with ⟨_, rfl⟩ | ⟨_, _, _, rfl⟩ <;> simp
  case setAddress =>
    rcases execSetAddress_cases h with ⟨_, rfl⟩ | ⟨_, _, _, rfl | rfl⟩ <;> simp
  case getDescriptorDevice => exact getDescriptor_txLog_grows h
  case getDescriptorInterface => exact getDescriptor_txLog_grows h
  case setConfiguration => rcases execSetConfiguration_cases h with ⟨_, rfl⟩ | ⟨_, rfl⟩ <;> simp
  case setIdle => rw [execSetIdle_eq] at h; cases h; simp
  case setProtocol => rw [execSetProtocol_eq] at h; cases h; simp
  case stall => rw [execStall_cases h]
  case usbSetup => rw [execUsbSetup_txLog h]
  case sendKeypress => exact execSendKeypress_txLog_grows h
  case hasConfigured => rw [(execHasConfigured_cases h).2]
  all_goals exact (controlIn_cases (Host.Outcome.next.inj h)).txLog_grows

/-- So does a run of operations. -/
theorem runAll_txLog_grows {is : List Instr} (h : runAll is s = .next t) : s.txLog <+: t.txLog :=
  @runAll_keeps (fun u => s.txLog <+: u.txLog)
    (fun i _ _ hu hgrown => hgrown.trans (exec_txLog_grows i hu)) is s t h (List.prefix_refl _)

/-! ### What commits no packet -/

@[simp] theorem takeChoice_txLog (s : State) : s.takeChoice.txLog = s.txLog := by
  unfold State.takeChoice
  split <;> rfl

@[simp] theorem enterHandler_txLog (hd : Handler) (s : State) :
    (enterHandler hd s).txLog = s.txLog := by
  cases hd <;> rfl

@[simp] theorem afterStart_txLog (hd : Handler) (rxstp : Bool) (s : State) :
    (afterStart hd rxstp s).txLog = s.txLog := by
  cases hd
  case ep => cases rxstp <;> rfl
  all_goals rfl

@[simp] theorem afterRequest_txLog (s : State) : (afterRequest s).txLog = s.txLog := by
  unfold afterRequest
  split <;> rfl

@[simp] theorem setupArrives_txLog (w : Setup64) (s : State) :
    (setupArrives w s).txLog = s.txLog := by
  unfold setupArrives
  dsimp only
  split <;> rfl

@[simp] theorem collectPacket_txLog (ep : Ep) (s : State) :
    (collectPacket ep s).txLog = s.txLog := by
  unfold collectPacket
  split <;> split <;> rfl

/-- The environment commits no packet, and a bus reset or a collect takes none out of the log. -/
@[simp] theorem applyEnv_txLog (e : EnvEvent) (s : State) : (applyEnv e s).txLog = s.txLog := by
  cases e <;> simp only [applyEnv]
  case eorst => rfl
  case sof => rfl
  case setup w => exact setupArrives_txLog w s
  case epint => split <;> rfl
  case collect ep => exact collectPacket_txLog ep s
  case rxstp => rfl
  case enableInt => split <;> rfl

/-- Settles O52, move by move: only operations commit packets, and each extends the log. -/
theorem transmitLogOnlyGrows : Obligations.TransmitLogOnlyGrows := by
  intro s t h
  suffices hp : s.txLog <+: t.txLog by
    obtain ⟨new, hnew⟩ := hp
    exact ⟨new, hnew.symm⟩
  rcases step_cases h with
    ⟨e, rfl⟩ | rfl | ⟨hd, u, _, hrun, rfl⟩ | ⟨u, _, hexec, rfl⟩ | ⟨c, hexec, _⟩
  · simp
  · simp
  · simpa using runAll_txLog_grows hrun
  · simpa using exec_txLog_grows _ hexec
  · simpa using exec_txLog_grows _ hexec

end Sys2Proof.Machine
end

section
/-! SUPPORT. The default descriptor table (R228 to R233): its entries under their keys, its interface
and endpoint descriptors, and the checks of R227 and R8 that it passes, each for all parameters. -/

namespace Sys2Proof

/-! ### Lengths of the entries -/

theorem Config.le16_length (u : Half) : (Config.le16 u).length = 2 := rfl

theorem Config.stringDescriptor_length (units : List Half) :
    (Config.stringDescriptor units).length = 2 + 2 * units.length := by
  simp only [Config.stringDescriptor, List.length_cons, List.length_flatMap, Config.le16_length,
    List.map_const', List.sum_replicate, smul_eq_mul]
  omega

/-- The report descriptor declares the report of R99, bit by bit (R227 item 7). -/
theorem Config.hidReportDescriptor_wf :
    reportDescriptorWf Config.hidReportDescriptor = true := by decide

section

variable (vendorId productId : Half) (kbEp : BitVec 4) (interval : Byte) (maker product : List Half)

/-! ### Entries -/

theorem Config.defaultDescTable_entry_manufacturer :
    (Config.defaultDescTable vendorId productId kbEp interval maker product).entry 0x0301 =
      some (Config.stringDescriptor maker) := rfl

theorem Config.defaultDescTable_entry_product :
    (Config.defaultDescTable vendorId productId kbEp interval maker product).entry 0x0302 =
      some (Config.stringDescriptor product) := rfl

theorem Config.defaultDescTable_bytes_device :
    (Config.defaultDescTable vendorId productId kbEp interval maker product).bytes 0x0100 =
      Config.deviceDescriptor vendorId productId := rfl

theorem Config.defaultDescTable_bytes_configuration :
    (Config.defaultDescTable vendorId productId kbEp interval maker product).bytes 0x0200 =
      Config.configurationDescriptor kbEp interval := rfl

theorem Config.defaultDescTable_bytes_hid :
    (Config.defaultDescTable vendorId productId kbEp interval maker product).bytes 0x2100 =
      Config.hidDescriptor := rfl

theorem Config.defaultDescTable_bytes_report :
    (Config.defaultDescTable vendorId productId kbEp interval maker product).bytes 0x2200 =
      Config.hidReportDescriptor := rfl

/-! ### The descriptors strung together in the configuration entry (R230) -/

theorem Config.defaultDescTable_interfaces :
    (Config.defaultDescTable vendorId productId kbEp interval maker product).descriptors 0x04 =
      [[0x09, 0x04, 0x00, 0x00, 0x01, 0x03, 0x01, 0x01, 0x00]] := rfl

theorem Config.defaultDescTable_endpoints :
    (Config.defaultDescTable vendorId productId kbEp interval maker product).descriptors 0x05 =
      [[0x07, 0x05, 0x80 ||| kbEp.setWidth 8, 0x03, 0x08, 0x00, interval]] := rfl

/-- Keys rise, and no entry is longer than a byte can count: the string descriptors are the only
entries whose length the parameters move (R227 item 8). -/
theorem Config.defaultDescTable_canonical (hm : maker.length ≤ 126) (hp : product.length ≤ 126) :
    DescTable.canonical
      (Config.defaultDescTable vendorId productId kbEp interval maker product) = true := by
  have hdev : (Config.deviceDescriptor vendorId productId).length = 18 := rfl
  have hcfg : (Config.configurationDescriptor kbEp interval).length = 34 := rfl
  have hhid : Config.hidDescriptor.length = 9 := rfl
  have hrep : Config.hidReportDescriptor.length = 45 := rfl
  have hmaker : 1 ≤ 2 + 2 * maker.length ∧ 2 + 2 * maker.length ≤ 255 := by omega
  have hproduct : 1 ≤ 2 + 2 * product.length ∧ 2 + 2 * product.length ≤ 255 := by omega
  simp only [Config.defaultDescTable, DescTable.canonical, hdev, hcfg, hhid, hrep,
    Config.stringDescriptor_length, hmaker, hproduct]
  decide

end

/-! ### Parameters that take the default table -/

section

variable {p : Params}
  (ht : p.descTable = Config.defaultDescTable p.vendorId p.productId p.kbEp p.kbEpInterval
    p.strManufacturer p.strProduct)

include ht

theorem interfaceWf_of_default (hif : p.keyboardInterface = 0) : Params.interfaceWf p = true := by
  simp only [Params.interfaceWf, ht, Config.defaultDescTable_interfaces, hif]
  rfl

theorem endpointWf_of_default (hsize : p.kbEpSize = Config.reportLen) :
    Params.endpointWf p = true := by
  have hbytes : holds16 [0x07, 0x05, 0x80 ||| p.kbEp.setWidth 8, 0x03, 0x08, 0x00, p.kbEpInterval] 4
      Config.reportLen = true := rfl
  simp only [Params.endpointWf, ht, Config.defaultDescTable_endpoints, hsize, hbytes]
  simp

/-- The checks of R227, in its order. -/
theorem descTableWf_of_default (hif : p.keyboardInterface = 0)
    (hsize : p.kbEpSize = Config.reportLen) (hm : p.strManufacturer.length ≤ 126)
    (hp : p.strProduct.length ≤ 126) : Params.descTableWf p = true := by
  -- what the named facts leave are single bytes and lengths of the entries
  simp only [Params.descTableWf, interfaceWf_of_default ht hif, endpointWf_of_default ht hsize, ht,
    Config.defaultDescTable_canonical _ _ _ _ _ _ hm hp, DescTable.byteAt,
    Config.defaultDescTable_bytes_device, Config.defaultDescTable_bytes_configuration,
    Config.defaultDescTable_bytes_hid, Config.defaultDescTable_bytes_report,
    Config.hidReportDescriptor_wf]
  rfl

/-- The parameters that R8 gives the table stand in it. -/
theorem identityWf_of_default : Params.identityWf p = true := by
  have hids : ((Config.deviceDescriptor p.vendorId p.productId).drop 8).take 4 =
      Config.le16 p.vendorId ++ Config.le16 p.productId := rfl
  simp only [Params.identityWf, ht, Config.defaultDescTable_bytes_device,
    Config.defaultDescTable_endpoints, Config.defaultDescTable_entry_manufacturer,
    Config.defaultDescTable_entry_product, hids]
  simp

end

/-- Settles O53: the parameters in question take the default table, with interface 0 and reports of
8 bytes. -/
theorem defaultTableMeetsItsConstraints : Obligations.DefaultTableMeetsItsConstraints := by
  intro _ _ _ _ _ _ hm hp
  exact ⟨descTableWf_of_default rfl rfl rfl hm hp, identityWf_of_default rfl⟩

end Sys2Proof
end

section
/-! SUPPORT. What one step can do, with the move that the schedule chose (R72, R250), and the rule by
which a property that every move keeps is kept by a step. -/

namespace Sys2Proof.Machine

variable {s t : State}

/-! ### The moves -/

/-- Taking a move off the schedule, or drawing one, touches the model's own fields only. -/
theorem takeChoice_eq (s : State) :
    ∃ sched draws, s.takeChoice = { s with sched := sched, draws := draws } := by
  unfold State.takeChoice
  split <;> exact ⟨_, _, rfl⟩

theorem startHandler_cases {h : Handler} (hs : startHandler h s = .next t) :
    t = s ∨ (s.mayStart h = true ∧
      ∃ u, runAll (operationsOf s.cfg.keyboardInterface (handlerWord h s)) (enterHandler h s) =
          .next u ∧
        t = afterStart h s.ep0Rxstp u) := by
  unfold startHandler at hs
  split at hs
  · obtain ⟨u, hrun, ht⟩ := andThen_eq_next.1 hs
    cases ht
    exact .inr ⟨‹_›, u, hrun, rfl⟩
  · cases hs
    exact .inl rfl

theorem advanceHandler_cases (hs : advanceHandler s = .next t) :
    t = s ∨ (s.inHandler = true ∧
      ∃ u, exec (decodeSetup s.cfg.keyboardInterface s.setupPkt.word) s = .next u ∧
        t = afterRequest u) := by
  unfold advanceHandler at hs
  rw [operationsOf_request, runAll_singleton] at hs
  split at hs
  · obtain ⟨u, hexec, ht⟩ := andThen_eq_next.1 hs
    cases ht
    exact .inr ⟨‹_›, u, hexec, rfl⟩
  · cases hs
    exact .inl rfl

theorem advanceForeground_cases (hs : advanceForeground s = .next t) :
    t = s ∨ ∃ c : Command, exec c.toInstr s = .next t := by
  unfold advanceForeground at hs
  split at hs
  · cases hs
    exact .inl rfl
  · split at hs
    · cases hs
      exact .inl rfl
    · exact .inr ⟨_, hs⟩

theorem issueCommand_cases {c : Command} (hs : issueCommand c s = .next t) :
    t = s ∨ exec c.toInstr s = .next t := by
  unfold issueCommand at hs
  split at hs
  · cases hs
    exact .inl rfl
  · split at hs
    · exact .inr hs
    · cases hs

/-- The moves of a step, from the state `a` with the chosen move used up; where a handler or the
environment acts, it is the schedule that chose it. -/
theorem step_moves (h : step s = .next t) :
    ∃ a, (∃ sched draws, a = { s with sched := sched, draws := draws }) ∧
      ((∃ e, t = applyEnv e a) ∨
        t = a ∨
        (∃ hd u, s.starts hd ∧
          runAll (operationsOf s.cfg.keyboardInterface (handlerWord hd s)) (enterHandler hd a) =
            .next u ∧
          t = afterStart hd s.ep0Rxstp u) ∨
        (s.nextChoice = .advance ∧ s.inHandler = true ∧
          ∃ u, exec (decodeSetup s.cfg.keyboardInterface s.setupPkt.word) a = .next u ∧
            t = afterRequest u) ∨
        (∃ c : Command, exec c.toInstr a = .next t)) := by
  obtain ⟨sched, draws, ha⟩ := takeChoice_eq s
  unfold step at h
  rw [ha] at h
  refine ⟨_, ⟨sched, draws, rfl⟩, ?_⟩
  cases hc : s.nextChoice <;> rw [hc] at h
  case env e => cases h; exact .inl ⟨e, rfl⟩
  case start hd =>
    rcases startHandler_cases h with rfl | ⟨hmay, u, hrun, rfl⟩
    · exact .inr (.inl rfl)
    · refine .inr (.inr (.inl ⟨hd, u, ⟨hc, ?_⟩, ?_, rfl⟩))
      · cases hd <;> exact hmay
      · cases hd <;> exact hrun
  case advance =>
    rcases advanceHandler_cases h with rfl | ⟨hin, u, hexec, rfl⟩
    · exact .inr (.inl rfl)
    · exact .inr (.inr (.inr (.inl ⟨rfl, hin, u, hexec, rfl⟩)))
  case fg =>
    rcases advanceForeground_cases h with rfl | ⟨c, hexec⟩
    · exact .inr (.inl rfl)
    · exact .inr (.inr (.inr (.inr ⟨c, hexec⟩)))
  case issue c =>
    rcases issueCommand_cases h with rfl | hexec
    · exact .inr (.inl rfl)
    · exact .inr (.inr (.inr (.inr ⟨c, hexec⟩)))

/-! ### The operations of a handler -/

/-- The operations a starting handler runs: one for each cause it finds. -/
theorem mem_operationsOf_handlerWord {kbIf : Half} {hd : Handler} {i : Instr}
    (h : i ∈ operationsOf kbIf (handlerWord hd s)) :
    (hd = .tick ∧ i = .tick s.sw) ∨ (hd = .gen ∧ s.causeEorst = true ∧ i = .giEorst) ∨
      (hd = .gen ∧ s.causeSof = true ∧ i = .giSof) ∨ (hd = .ep ∧ i = .epInt s.ep0Rxstp) := by
  cases hd
  case tick =>
    rw [operationsOf_tick] at h
    exact .inl ⟨rfl, List.mem_singleton.1 h⟩
  case gen =>
    rw [operationsOf_gen] at h
    rcases List.mem_append.1 h with h | h <;> split at h
    · exact .inr (.inl ⟨rfl, ‹_›, List.mem_singleton.1 h⟩)
    · cases h
    · exact .inr (.inr (.inl ⟨rfl, ‹_›, List.mem_singleton.1 h⟩))
    · cases h
  case ep =>
    rw [operationsOf_ep] at h
    exact .inr (.inr (.inr ⟨rfl, List.mem_singleton.1 h⟩))

/-- A property that each operation of a run keeps is kept by the run. -/
theorem runAll_keeps_of_mem {P : State → Prop} {is : List Instr}
    (h : ∀ i ∈ is, ∀ s t, exec i s = .next t → P s → P t)
    (hrun : runAll is s = .next t) (hs : P s) : P t := by
  induction is generalizing s with
  | nil => cases hrun; exact hs
  | cons i is ih =>
    obtain ⟨u, hu, ht⟩ := andThen_eq_next.1 hrun
    exact ih (fun j hj => h j (List.mem_cons_of_mem i hj)) ht (h i List.mem_cons_self s u hu hs)

/-! ### What every move keeps -/

theorem afterStart_keeps {P : State → Prop} (hleave : ∀ s, P s → P (leaveHandler s)) (hd : Handler)
    (rxstp : Bool) {u : State} (hu : P u) : P (afterStart hd rxstp u) := by
  cases hd
  case ep => cases rxstp <;> simp only [afterStart, Bool.false_eq_true, if_true, if_false, hu, hleave]
  all_goals exact hleave u hu

theorem afterRequest_keeps {P : State → Prop} (hleave : ∀ s, P s → P (leaveHandler s)) {u : State}
    (hu : P u) : P (afterRequest u) := by
  unfold afterRequest
  split
  · exact hleave u hu
  · exact hu

/-- A property that every move keeps is kept by every step. -/
theorem step_keeps {P : State → Prop}
    (hchoice : ∀ s sched draws, P s → P { s with sched := sched, draws := draws })
    (henv : ∀ e s, P s → P (applyEnv e s))
    (henter : ∀ hd s, P s → P (enterHandler hd s)) (hleave : ∀ s, P s → P (leaveHandler s))
    (hexec : ∀ i s t, exec i s = .next t → P s → P t) (h : step s = .next t) (hs : P s) : P t := by
  obtain ⟨a, ⟨sched, draws, rfl⟩, hmove⟩ := step_moves h
  have ha := hchoice s sched draws hs
  rcases hmove with
    ⟨e, rfl⟩ | rfl | ⟨hd, u, _, hrun, rfl⟩ | ⟨_, _, u, hu, rfl⟩ | ⟨c, hc⟩
  · exact henv e _ ha
  · exact ha
  · exact afterStart_keeps hleave hd _ (runAll_keeps hexec hrun (henter hd _ ha))
  · exact afterRequest_keeps hleave (hexec _ _ _ hu ha)
  · exact hexec _ _ _ hc ha

/-! ### The environment -/

/-- What a packet's arrival writes, its own FIFO or not: eight bytes stand there. -/
theorem setupArrives_eq (w : Setup64) (s : State) :
    ∃ rx draws, rx.length = 8 ∧
      setupArrives w s =
        { s with
          ep0Rxstp := true, ep0Stall := false, ep0Banks := []
          pendEp := s.pendEp || s.ep0Cfg.rxstpIntEn, ep0Rx := rx, draws := draws } := by
  unfold setupArrives
  dsimp only
  split
  · exact ⟨_, _, by simp [freeFifo], rfl⟩
  · exact ⟨_, _, rfl, rfl⟩

/-- A spurious interrupt pends `A_EP` where `ep0_rxstp = 0` (R44; log entry 15). -/
theorem applyEnv_epint (s : State) :
    applyEnv .epint s = { s with pendEp := s.pendEp || !s.ep0Rxstp } := by
  have hpend : s.ep0Rxstp = true → (s.pendEp || !s.ep0Rxstp) = s.pendEp := by
    intro h
    simp [h]
  simp only [applyEnv]
  split
  · rw [hpend ‹_›]
  · simp only [Bool.eq_false_of_not_eq_true ‹_›, Bool.not_false, Bool.or_true]

/-- A collect takes the oldest packet of one endpoint, if there is one. -/
theorem collectPacket_cases (ep : Ep) (s : State) :
    collectPacket ep s = s ∨
    (∃ p rest, s.ep0Banks = p :: rest ∧
      collectPacket ep s = { s with ep0Banks := rest, ep0Txini := true }) ∨
    (∃ p rest, s.kbBanks = p :: rest ∧
      collectPacket ep s = { s with kbBanks := rest, kbRwal := true }) := by
  cases ep
  case ep0 =>
    cases h : s.ep0Banks with
    | nil => exact .inl (collectPacket_ep0_nil s h)
    | cons p rest => exact .inr (.inl ⟨p, rest, rfl, collectPacket_ep0_cons s h⟩)
  case kb =>
    cases h : s.kbBanks with
    | nil => exact .inl (collectPacket_kb_nil s h)
    | cons p rest => exact .inr (.inr ⟨p, rest, rfl, collectPacket_kb_cons s h⟩)

/-- The runtime enables interrupts, or does nothing. -/
theorem applyEnv_enableInt_cases (s : State) :
    applyEnv .enableInt s = s ∨
      ((s.fg = .idle ∧ s.inHandler = false) ∧
        applyEnv .enableInt s = { s with intEnable := true }) := by
  simp only [applyEnv]
  split
  · exact .inr ⟨‹_›, rfl⟩
  · exact .inl rfl

/-- The fields an action of the environment may write: the ports, the UDC's storage, the draw counter,
the latches of R38, the address, the stall and `int_enable`. -/
theorem applyEnv_frame (e : EnvEvent) (s : State) :
    applyEnv e s =
      { s with
        sw := (applyEnv e s).sw
        pllLocked := (applyEnv e s).pllLocked
        ep0Rxstp := (applyEnv e s).ep0Rxstp
        ep0Rxout := (applyEnv e s).ep0Rxout
        ep0Txini := (applyEnv e s).ep0Txini
        kbRwal := (applyEnv e s).kbRwal
        frameNum := (applyEnv e s).frameNum
        ep0Rx := (applyEnv e s).ep0Rx
        ep0Banks := (applyEnv e s).ep0Banks
        kbBanks := (applyEnv e s).kbBanks
        draws := (applyEnv e s).draws
        pendTick := (applyEnv e s).pendTick
        pendGen := (applyEnv e s).pendGen
        pendEp := (applyEnv e s).pendEp
        causeEorst := (applyEnv e s).causeEorst
        causeSof := (applyEnv e s).causeSof
        devAddr := (applyEnv e s).devAddr
        addrEn := (applyEnv e s).addrEn
        ep0Stall := (applyEnv e s).ep0Stall
        intEnable := (applyEnv e s).intEnable } := by
  cases e
  case setup w =>
    obtain ⟨rx, draws, _, h⟩ := setupArrives_eq w s
    rw [applyEnv, h]
  case epint => rw [applyEnv_epint]
  case collect ep =>
    rcases collectPacket_cases ep s with h | ⟨_, _, _, h⟩ | ⟨_, _, _, h⟩ <;> rw [applyEnv, h]
  case enableInt => rcases applyEnv_enableInt_cases s with h | ⟨_, h⟩ <;> rw [h]
  all_goals rfl

/-! ### The parameters (R51, R77) -/

/-- Settles O54: no move writes `cfg`, and the descriptor ROM is a part of it. -/
theorem descriptorRomIsConstant : Obligations.DescriptorRomIsConstant := by
  intro s t h
  have hcfg : t.cfg = s.cfg :=
    step_keeps (P := fun u => u.cfg = s.cfg) (fun _ _ _ hu => hu)
      (fun e u hu => (congrArg State.cfg (applyEnv_frame e u)).trans hu)
      (fun hd _ hu => by cases hd <;> exact hu) (fun _ hu => hu)
      (fun i _ _ hu ha => (exec_cfg i hu).trans ha) h rfl
  exact ⟨hcfg, fun key off n => by rw [hcfg]⟩

end Sys2Proof.Machine
end

section
/-! SUPPORT. The events of the environment one by one: what each sets and what none of them may
change (R35, R36, R42 to R46, R274), the delivery of a SETUP packet (R154, R246), and reset (R50). -/

namespace Sys2Proof.Machine

variable {s : State}

/-! ### SETUP packets -/

/-- A packet in its own FIFO: nothing is pending and no handler runs (R246). -/
theorem setupArrives_of_free (w : Setup64) (hp : s.pendEp = false) (hi : s.inHandler = false) :
    setupArrives w s =
      { s with
        ep0Rxstp := true, ep0Stall := false, ep0Banks := [], pendEp := s.ep0Cfg.rxstpIntEn
        ep0Rx := Setup64.bytes w } := by
  simp [setupArrives, hp, hi]

/-- Settles O13, event by event: what each sets is its definition but for the SETUP packet and the
spurious interrupt, whose two cases agree. -/
theorem enabledCausesAreLatched : Obligations.EnabledCausesAreLatched := by
  intro s
  have hrxstp0 : applyEnv (.rxstp false) s = { s with ep0Rxstp := false } := by
    simp [applyEnv, rxstpChanges]
  have hrxstp1 : applyEnv (.rxstp true) s =
      { s with
        ep0Rxstp := true
        pendEp := s.pendEp || (!s.ep0Rxstp && s.ep0Cfg.rxstpIntEn) } := by
    simp [applyEnv, rxstpChanges]
  refine ⟨rfl, rfl, rfl, rfl, rfl, rfl, rfl, rfl, rfl, rfl, rfl, applyEnv_epint s, hrxstp0, hrxstp1,
    fun w => ?_⟩
  obtain ⟨rx, draws, _, harrive⟩ := setupArrives_eq w s
  exact ⟨congrArg State.ep0Stall harrive, congrArg State.ep0Rxstp harrive,
    congrArg State.pendEp harrive,
    fun hp hi => congrArg State.ep0Rx (setupArrives_of_free w hp hi)⟩

/-! ### What the environment may change -/

/-- No pending bit and no cause bit, the latches of R38, is cleared. -/
def LatchesKept (s t : State) : Prop :=
  (s.pendTick = true → t.pendTick = true) ∧ (s.pendGen = true → t.pendGen = true) ∧
  (s.pendEp = true → t.pendEp = true) ∧ (s.causeEorst = true → t.causeEorst = true) ∧
  (s.causeSof = true → t.causeSof = true)

/-- The environment only sets latches (R38). -/
theorem applyEnv_keeps_latches (e : EnvEvent) (s : State) : LatchesKept s (applyEnv e s) := by
  have hsame : LatchesKept s s := ⟨id, id, id, id, id⟩
  cases e
  case tick => exact ⟨fun _ => rfl, id, id, id, id⟩
  case eorst => simp +contextual [LatchesKept, applyEnv, busResetEnds]
  case sof => simp +contextual [LatchesKept, applyEnv, frameStarts]
  case epint => simp +contextual [LatchesKept, applyEnv_epint]
  case rxstp => simp +contextual [LatchesKept, applyEnv, rxstpChanges]
  case setup w =>
    obtain ⟨rx, draws, _, h⟩ := setupArrives_eq w s
    simp +contextual [LatchesKept, applyEnv, h]
  case collect ep =>
    rcases collectPacket_cases ep s with h | ⟨_, _, _, h⟩ | ⟨_, _, _, h⟩ <;>
      simp only [applyEnv, h] <;> exact hsame
  case enableInt =>
    rcases applyEnv_enableInt_cases s with h | ⟨_, h⟩ <;> rw [h] <;> exact hsame
  all_goals exact hsame

/-- The registers the environment shares with the block stand as they were: the address, the stall
and `int_enable`. -/
def SharedKept (s t : State) : Prop :=
  (t.devAddr = s.devAddr ∧ t.addrEn = s.addrEn) ∧ t.ep0Stall = s.ep0Stall ∧
    t.intEnable = s.intEnable

/-- The three events that write a register the environment shares with the block. -/
theorem applyEnv_shared (e : EnvEvent) (s : State) :
    SharedKept s (applyEnv e s) ∨
    (e = .eorst ∧ applyEnv e s = busResetEnds s) ∨
    (∃ w, e = .setup w ∧ applyEnv e s = setupArrives w s) ∨
    (e = .enableInt ∧ (s.fg = .idle ∧ s.inHandler = false) ∧
      applyEnv e s = { s with intEnable := true }) := by
  have hsame : SharedKept s s := ⟨⟨rfl, rfl⟩, rfl, rfl⟩
  cases e
  case eorst => exact .inr (.inl ⟨rfl, rfl⟩)
  case setup w => exact .inr (.inr (.inl ⟨w, rfl, rfl⟩))
  case enableInt =>
    rcases applyEnv_enableInt_cases s with h | ⟨hidle, h⟩
    · left; rw [h]; exact hsame
    · exact .inr (.inr (.inr ⟨rfl, hidle, h⟩))
  case epint => left; rw [applyEnv_epint]; exact hsame
  case collect ep =>
    left
    rcases collectPacket_cases ep s with h | ⟨_, _, _, h⟩ | ⟨_, _, _, h⟩ <;>
      rw [applyEnv, h] <;> exact hsame
  all_goals exact .inl hsame

/-- Settles O60, from the frame of an action and the one event that writes each field named there. -/
theorem environmentOwnsNoRegister : Obligations.EnvironmentOwnsNoRegister := by
  intro s t e rest hsched hstep
  rw [step_of_sched hsched] at hstep
  cases hstep
  obtain ⟨htick, hgen, hep, heorst, hsof⟩ := applyEnv_keeps_latches e { s with sched := rest }
  refine ⟨applyEnv_frame e { s with sched := rest }, htick, hgen, hep, heorst, hsof, ?_⟩
  rcases applyEnv_shared e { s with sched := rest } with
    ⟨⟨haddr, hen⟩, hstall, hint⟩ | ⟨rfl, h⟩ | ⟨w, rfl, h⟩ | ⟨rfl, hidle, h⟩
  · exact ⟨fun hne => (hne.elim (· haddr) (· hen)).elim, fun hne => (hne hstall).elim,
      fun hne => (hne hint).elim⟩
  · rw [h]
    exact ⟨fun _ => ⟨rfl, rfl, rfl⟩, fun hne => (hne rfl).elim, fun hne => (hne rfl).elim⟩
  · obtain ⟨rx, draws, _, harrive⟩ := setupArrives_eq w { s with sched := rest }
    rw [h, harrive]
    exact ⟨fun hne => (hne.elim (· rfl) (· rfl)).elim, fun _ => ⟨⟨w, rfl⟩, rfl⟩,
      fun hne => (hne rfl).elim⟩
  · rw [h]
    exact ⟨fun hne => (hne.elim (· rfl) (· rfl)).elim, fun hne => (hne rfl).elim,
      fun _ => ⟨rfl, rfl, hidle⟩⟩

/-! ### Delivery of a SETUP packet (R97, R154, R246) -/

theorem concatBytes_extractLsb' (w : Setup64) (i : Nat) :
    concatBytes (w.extractLsb' (i + 8) 8) (w.extractLsb' i 8) = w.extractLsb' i 16 := by
  ext k hk
  by_cases h : k < 8
  · simp [concatBytes, h]
  · simp [concatBytes, h, show k - 8 < 8 by omega, show i + 8 + (k - 8) = i + k by omega]

/-- The bytes of a word, read in order, are the packet of the word (R96, R97). -/
theorem SetupPkt.ofBytes_bytes (w : Setup64) :
    SetupPkt.ofBytes (w.byte 0) (w.byte 1) (w.byte 2) (w.byte 3) (w.byte 4) (w.byte 5) (w.byte 6)
      (w.byte 7) = .ofWord w := by
  have hvalue : concatBytes (w.byte 3) (w.byte 2) = Setup64.wValue w := concatBytes_extractLsb' w 16
  have hindex : concatBytes (w.byte 5) (w.byte 4) = Setup64.wIndex w := concatBytes_extractLsb' w 32
  have hlength : concatBytes (w.byte 7) (w.byte 6) = Setup64.wLength w :=
    concatBytes_extractLsb' w 48
  simp only [SetupPkt.ofBytes, hvalue, hindex, hlength]
  rfl

/-- `EP_INT` with a packet's bytes in the FIFO parses them and acknowledges (R154). -/
theorem execEpInt_of_bytes {w : Setup64} (h : s.ep0Rx = Setup64.bytes w) :
    execEpInt true s = .next
      { s with
        setupPkt := .ofWord w, pendEp := false, ep0Rxstp := false, ep0Rxout := false
        ep0Txini := false, ep0Rx := [], ep0Tx := [], ep0Banks := [], ctlPhase := .idle } := by
  have hread : readSetup { s with pendEp := false } =
      { s with pendEp := false, setupPkt := .ofWord w, ep0Rx := [] } := by
    rw [← SetupPkt.ofBytes_bytes]
    exact readSetup_of_bytes _ h
  simp only [execEpInt, hread, if_true]
  rfl

/-- The start of `A_EP` on a new SETUP packet: the parse, and the run goes on to serve it. -/
theorem startHandler_ep_of_bytes {w : Setup64} (hmay : s.mayStart .ep = true)
    (hflag : s.ep0Rxstp = true) (hrx : s.ep0Rx = Setup64.bytes w) :
    startHandler .ep s = .next
      { s with
        inHandler := true, setupPkt := .ofWord w, pendEp := false, ep0Rxstp := false
        ep0Rxout := false, ep0Txini := false, ep0Rx := [], ep0Tx := [], ep0Banks := []
        ctlPhase := .idle } := by
  have hparse := execEpInt_of_bytes (s := enterHandler .ep s) hrx
  simp only [startHandler, hmay, if_true, operationsOf_ep, runAll_singleton, hflag, exec, hparse,
    andThen_next, afterStart]
  rfl

/-- Settles O14: the packet's bytes fill the FIFO, and the parse reads them back as the word's
fields. -/
theorem deliveredPacketIsServed : Obligations.DeliveredPacketIsServed := by
  intro s w rest hint hpend hin hen hsched
  have harrive : step s = .next
      { s with
        sched := .start .ep :: rest, ep0Rxstp := true, ep0Stall := false, ep0Banks := []
        pendEp := true, ep0Rx := Setup64.bytes w } := by
    rw [step_of_sched hsched]
    have harrive := setupArrives_of_free (s := { s with sched := .start .ep :: rest }) w hpend hin
    simp only [stepChoice, applyEnv, harrive, hint]
  simp only [stepN, harrive, andThen_next]
  rw [step_of_sched rfl]
  simp only [stepChoice]
  rw [startHandler_ep_of_bytes (w := w) (by simp [State.mayStart, State.pending, hen, hin]) rfl rfl]
  rfl

/-! ### Reset (R50, R49) -/

/-- Settles O50: every value is the one that `State.resetWith` writes. -/
theorem resetValuesAreTheSpecs : Obligations.ResetValuesAreTheSpecs := by
  intro p
  refine ⟨rfl, rfl, rfl, rfl, rfl, ?_, rfl, rfl, rfl, rfl, rfl, rfl, rfl, rfl, rfl, rfl, rfl, rfl,
    rfl, rfl, rfl, rfl, rfl, rfl, rfl, rfl, rfl, rfl, rfl, rfl, rfl, rfl, rfl⟩
  exact Vector.toList_replicate

theorem resetWith_meets_inv (p : Params) (cs : List Choice) :
    MachineInv { State.resetWith p with sched := cs } where
  maskTop := (by decide : (0 : BitVec 8).extractLsb' 6 2 = 0)
  keySlots := by simp [State.resetWith]
  configuration := .inl rfl
  kbEnabled := Bool.noConfusion
  idle := .inl rfl
  noHold _ := rfl
  phase := rfl
  send := rfl
  bringUp := rfl
  fifos := ⟨rfl, rfl⟩
  ep0Sizes := ⟨Nat.zero_le _, Nat.zero_le _, by simp [State.resetWith]⟩
  kbSizes := ⟨Nat.zero_le _, by simp [State.resetWith]⟩
  order := ⟨List.nil_sublist _, List.nil_sublist _⟩
  frame := Nat.two_pow_pos _
  log := by simp [State.resetWith]

/-- Settles O49: the storage is empty, the ports read 0 and nothing is in flight. -/
theorem resetMeetsTheInvariant : Obligations.ResetMeetsTheInvariant :=
  ⟨resetWith_meets_inv Config.params [], fun p cs => ⟨resetWith_meets_inv p cs, rfl⟩⟩

end Sys2Proof.Machine
end

section
/-! SUPPORT. The key decoder in closed form (R131 to R133): the mask that a tick leaves, bit by bit, and
when it ends a gesture. -/

namespace Sys2Proof.Machine

/-! ### The bits of the mask -/

section

variable (sw : BitVec 3) (m : BitVec 8)

theorem getLsbD_one_shiftLeft {i j : Nat} (hi : i < 8) :
    (1#8 <<< i).getLsbD j = decide (j = i) := by
  simp only [BitVec.getLsbD_shiftLeft, BitVec.getLsbD_one]
  by_cases h : j = i <;> simp [h] <;> omega

/-- One key's step writes its held bit with the sample, and its latched bit when it was held and reads
released (R131). -/
theorem getLsbD_keyStep {k j : Nat} (hk : k < 3) (hj : j < 8) :
    (keyStep sw m k).getLsbD j =
      if j = k + 3 then sw.getLsbD k
      else if j = k then m.getLsbD k || (m.getLsbD (k + 3) && !sw.getLsbD k)
      else m.getLsbD j := by
  have hheld := getLsbD_one_shiftLeft (j := j) (show k + 3 < 8 by omega)
  have hlatched := getLsbD_one_shiftLeft (j := j) (show k < 8 by omega)
  unfold keyStep
  split
  · rw [BitVec.getLsbD_or, hheld]
    grind
  · split
    · rw [BitVec.getLsbD_or, BitVec.getLsbD_and, BitVec.getLsbD_not, hheld, hlatched]
      grind
    · grind

theorem getLsbD_keyLoop {j : Nat} (hj : j < 8) :
    (keyLoop sw m).getLsbD j =
      if j < 3 then m.getLsbD j || (m.getLsbD (j + 3) && !sw.getLsbD j)
      else if j < 6 then sw.getLsbD (j - 3)
      else m.getLsbD j := by
  simp only [keyLoop, List.foldl_cons, List.foldl_nil]
  interval_cases j <;> simp [getLsbD_keyStep, -BitVec.getLsbD_eq_getElem]

/-- After a tick the held bits are the sample (R132). -/
theorem heldBits_keyLoop : heldBits (keyLoop sw m) = sw := by
  ext k hk
  have hbit := getLsbD_keyLoop sw m (j := 3 + k) (by omega)
  rw [if_neg (by omega), if_pos (by omega), Nat.add_sub_cancel_left] at hbit
  simp [heldBits, hbit, hk]

/-- After a tick a key is latched if it was, or if it was held and reads released (R132). -/
theorem latchedBits_keyLoop : latchedBits (keyLoop sw m) = latchedAfter sw m := by
  ext k hk
  have hbit := getLsbD_keyLoop sw m (j := k) (by omega)
  rw [if_pos hk] at hbit
  simp [latchedBits, latchedAfter, heldBits, hbit, hk, Nat.add_comm]

/-- A tick leaves bits 7:6 alone (R21). -/
theorem topBits_keyLoop : (keyLoop sw m).extractLsb' 6 2 = m.extractLsb' 6 2 := by
  ext k hk
  have hbit := getLsbD_keyLoop sw m (j := 6 + k) (by omega)
  rw [if_neg (by omega), if_neg (by omega)] at hbit
  simp [hbit]

/-- A tick ends a gesture when nothing is pressed and something has latched (R39, R131). -/
theorem gestureDone_keyLoop :
    gestureDone (keyLoop sw m) = true ↔ sw = 0 ∧ latchedAfter sw m ≠ 0 := by
  simp [gestureDone, heldBits_keyLoop, latchedBits_keyLoop]

/-- A mask with bits 7:6 zero is its held and its latched bits (R21). -/
theorem eq_maskOf (h : m.extractLsb' 6 2 = 0) : m = maskOf (heldBits m) (latchedBits m) := by
  have htop : ∀ k, k < 2 → m.getLsbD (6 + k) = false := by
    intro k hk
    have := congrArg (·.getLsbD k) h
    simpa [hk] using this
  ext k hk
  rw [← BitVec.getLsbD_eq_getElem]
  by_cases hlatch : k < 3
  · simp [maskOf, latchedBits, hlatch]
  by_cases hheld : k < 6
  · simp [maskOf, heldBits, latchedBits, hlatch, show k - 3 < 3 by omega,
      show 3 + (k - 3) = k by omega]
  · have hbit := htop (k - 6) (by omega)
    rw [show 6 + (k - 6) = k by omega] at hbit
    simpa [maskOf, heldBits, latchedBits, hlatch, show ¬ k - 3 < 3 by omega] using hbit

end

/-! ### TICK -/

variable {s t : State}

/-- What `TICK` answers: one emission of the latched keys, or the mask of R132. -/
theorem execTick_eq (sw : BitVec 3) (s : State) :
    execTick sw s = .next
      (if sw = 0 ∧ latchedAfter sw s.keyMask ≠ 0 then emitted (latchedAfter sw s.keyMask) s
      else { s with keyMask := keyLoop sw s.keyMask }) := by
  simp only [execTick, gestureDone_keyLoop, latchedBits_keyLoop]
  split <;> rfl

theorem emittedCell_eq (policy : OverrunPolicy) (old kp : BitVec 3) :
    emittedCell policy old kp = if policy = .overwrite ∨ old = 0 then kp else old := by
  cases policy <;> simp [emittedCell]

/-- Settles O15: the sample and the latched keys are the two halves of the mask after the loop. -/
theorem tickFollowsTheClosedForm : Obligations.TickFollowsTheClosedForm := by
  intro sw s htop
  have hmask : keyLoop sw s.keyMask = maskOf sw (latchedAfter sw s.keyMask) := by
    have h := eq_maskOf _ ((topBits_keyLoop sw s.keyMask).trans htop)
    rwa [heldBits_keyLoop, latchedBits_keyLoop] at h
  simp only [exec, execTick_eq, emitted, handleKeypress, emittedCell_eq, hmask]
  rfl

end Sys2Proof.Machine
end

section
/-! SUPPORT. Noninterference (R27, R36, R52): an operation that does not own a register neither reads
nor writes it, so it commutes with putting other values into the registers it does not own. -/

namespace Sys2Proof.Machine

/-! ### Putting other values in -/

/-- Other values for the registers in question, each made from the value that stands there; a register
not named stays. -/
structure Overlay where
  keyMask : BitVec 8 → BitVec 8 := id
  kpCell : BitVec 3 → BitVec 3 := id
  kpOverrun : Bool → Bool := id
  protocol : Byte → Byte := id
  devAddr : BitVec 7 → BitVec 7 := id
  addrEn : Bool → Bool := id

/-- The state with the other values put in. -/
def Overlay.on (o : Overlay) (s : State) : State :=
  { s with
    keyMask := o.keyMask s.keyMask
    kpCell := o.kpCell s.kpCell
    kpOverrun := o.kpOverrun s.kpOverrun
    protocol := o.protocol s.protocol
    devAddr := o.devAddr s.devAddr
    addrEn := o.addrEn s.addrEn }

/-- The operations that read or write `protocol` (R151, R194, R195). -/
def usesProtocol : Instr → Bool
  | .getProtocol _ _ => true
  | .setProtocol _ _ => true
  | .giEorst => true
  | _ => false

/-- `SET_ADDRESS`, which alone writes the device address (R174). -/
def isSetAddress : Instr → Bool
  | .setAddress _ _ _ => true
  | _ => false

/-- The overlay leaves the registers of an operation as they are: those of the key decoder for its
two operations, `protocol` for the three that use it, the address for `SET_ADDRESS`. -/
structure Overlay.Spares (o : Overlay) (i : Instr) : Prop where
  keys : isKcd i = true → o.keyMask = id ∧ o.kpCell = id ∧ o.kpOverrun = id
  protocol : usesProtocol i = true → o.protocol = id
  address : isSetAddress i = true → o.devAddr = id ∧ o.addrEn = id

variable (o : Overlay) (s : State)

@[simp] theorem mapNext_next (f : State → State) : mapNext f (.next s) = .next (f s) := rfl

/-! ### The shared operations -/

theorem Overlay.epSend_epWriteAll_ep0 (bs : List Byte) :
    epSend .ep0 (epWriteAll .ep0 bs (o.on s)) = o.on (epSend .ep0 (epWriteAll .ep0 bs s)) := by
  rw [Machine.epSend_epWriteAll_ep0, Machine.epSend_epWriteAll_ep0]
  rfl

theorem Overlay.pushReport : pushReport (o.on s) = o.on (pushReport s) := by
  rw [pushReport_eq, pushReport_eq]
  rfl

theorem Overlay.controlDataPoll (data : List Byte) (off len wlen polls : Nat) :
    controlDataPoll data off len wlen polls (o.on s) =
      o.on (controlDataPoll data off len wlen polls s) := by
  have hexp : (o.on s).holdExpired polls = s.holdExpired polls := rfl
  have hout : (o.on s).rxOut = s.rxOut := rfl
  have hready : (o.on s).txReady = s.txReady := rfl
  simp only [Machine.controlDataPoll, hexp, hout, hready, epSend_epWriteAll_ep0]
  split
  · rfl
  split
  · rfl
  split
  · split <;> rfl
  · rfl

theorem Overlay.controlIn (data : List Byte) (wLength : Half) :
    controlIn data wLength (o.on s) = o.on (controlIn data wLength s) := by
  have hphase : (o.on s).ctlPhase = s.ctlPhase := rfl
  simp only [Machine.controlIn, hphase]
  split
  · rfl
  · rfl
  · exact o.controlDataPoll s ..

theorem Overlay.ep0Read8 : ep0Read8 (o.on s) = ((ep0Read8 s).1, o.on (ep0Read8 s).2) := by
  have hrx : (o.on s).ep0Rx = s.ep0Rx := rfl
  simp only [Machine.ep0Read8, hrx]
  split <;> rfl

theorem Overlay.readSetup : readSetup (o.on s) = o.on (readSetup s) := by
  simp only [Machine.readSetup, ep0Read8]
  rfl

/-! ### The meanings -/

theorem Overlay.execTick {sw : BitVec 3}
    (h : o.keyMask = id ∧ o.kpCell = id ∧ o.kpOverrun = id) :
    execTick sw (o.on s) = mapNext o.on (execTick sw s) := by
  obtain ⟨hmask, hcell, hover⟩ := h
  have hkeys : (o.on s).keyMask = s.keyMask := by simp only [on, hmask, id]
  simp only [execTick_eq, hkeys, mapNext_next]
  split <;> simp only [on, emitted, handleKeypress, State.cellFull, hmask, hcell, hover, id]

theorem Overlay.execKpTake (h : o.keyMask = id ∧ o.kpCell = id ∧ o.kpOverrun = id) :
    execKpTake (o.on s) = mapNext o.on (execKpTake s) := by
  obtain ⟨hmask, hcell, hover⟩ := h
  have hin : (o.on s).inHandler = s.inHandler := rfl
  have hfg : (o.on s).fg = s.fg := rfl
  simp only [Machine.execKpTake, hin, hfg]
  split
  · rfl
  · split
    · simp only [on, mapNext_next, hmask, hcell, hover, id]
    · simp only [on, mapNext_next, finishCommand, hmask, hcell, hover, id]
    · rfl
    · rfl

theorem Overlay.execGiEorst (h : o.protocol = id) :
    execGiEorst (o.on s) = mapNext o.on (execGiEorst s) := by
  simp only [Machine.execGiEorst, resetHidState, mapNext_next]
  cases hs : s.cfg.eorstResetScope <;>
    simp only [on, ep0Config, keptSofDiv, hs, h, id]

theorem Overlay.idleUnit : idleUnit (o.on s) = o.on (idleUnit s) := by
  have hcount : (o.on s).idleCount = s.idleCount := rfl
  have hconfig : (o.on s).idleConfig = s.idleConfig := rfl
  simp only [Machine.idleUnit, hcount, hconfig]
  split
  · exact o.pushReport { s with idleCount := 0 }
  · rfl

theorem Overlay.execGiSof : execGiSof (o.on s) = mapNext o.on (execGiSof s) := by
  have hdef : ∀ u, Machine.execGiSof (o.on u) =
      if u.configured && u.idleConfig != 0 then
        .next (if u.sofDiv + 1 = 0 ∧ u.kbReady = true then
          Machine.idleUnit (o.on { u with sofDiv := u.sofDiv + 1 })
        else o.on { u with sofDiv := u.sofDiv + 1 })
      else .next (o.on u) := fun _ => rfl
  rw [hdef, idleUnit, Machine.execGiSof]
  split
  · rw [mapNext_next]
    exact congrArg _ (apply_ite o.on ..).symm
  · rfl

theorem Overlay.execEpInt (rxstp : Bool) :
    execEpInt rxstp (o.on s) = mapNext o.on (execEpInt rxstp s) := by
  have hread : Machine.readSetup { o.on s with pendEp := false } =
      o.on (Machine.readSetup { s with pendEp := false }) := o.readSetup { s with pendEp := false }
  simp only [Machine.execEpInt, hread]
  split <;> rfl

theorem Overlay.execSetAddress {v ix l : Half} (h : o.devAddr = id ∧ o.addrEn = id) :
    execSetAddress v ix l (o.on s) = mapNext o.on (execSetAddress v ix l s) := by
  obtain ⟨haddr, hen⟩ := h
  have hphase : (o.on s).ctlPhase = s.ctlPhase := rfl
  have hexp : ∀ polls, (o.on s).holdExpired polls = s.holdExpired polls := fun _ => rfl
  have hready : (o.on s).txReady = s.txReady := rfl
  simp only [Machine.execSetAddress, hphase]
  split
  · rfl
  · rfl
  · simp only [addressPoll, hexp, hready, mapNext_next]
    split
    · simp only [on, haddr, hen, id]
    · rfl

theorem Overlay.getDescriptor (v l : Half) :
    getDescriptor v l (o.on s) = mapNext o.on (getDescriptor v l s) := by
  have hphase : (o.on s).ctlPhase = s.ctlPhase := rfl
  have hstart : descriptorStart v l (o.on s) = mapNext o.on (descriptorStart v l s) := by
    have hcfg : (o.on s).cfg = s.cfg := rfl
    simp only [descriptorStart_eq, hcfg, mapNext_next]
    split <;> rfl
  simp only [Machine.getDescriptor, hphase]
  split
  · exact hstart
  · exact hstart
  · exact congrArg _ (o.controlDataPoll s ..)

theorem Overlay.execSetConfiguration (v ix l : Half) :
    execSetConfiguration v ix l (o.on s) = mapNext o.on (execSetConfiguration v ix l s) := by
  simp only [Machine.execSetConfiguration]
  split <;> rfl

theorem Overlay.execUsbSetup : execUsbSetup (o.on s) = mapNext o.on (execUsbSetup s) := by
  have hin : (o.on s).inHandler = s.inHandler := rfl
  have hfg : (o.on s).fg = s.fg := rfl
  have hatt : (o.on s).attached = s.attached := rfl
  simp only [Machine.execUsbSetup, hin, hfg, hatt]
  split
  · rfl
  split
  · split <;> rfl
  · rename_i pos _
    cases pos
    case step3 polls =>
      have hcfg : (o.on s).cfg = s.cfg := rfl
      have hpll : (o.on s).pllLocked = s.pllLocked := rfl
      simp only [setupStep, hcfg, hpll, mapNext_next]
      split
      · rfl
      split
      · rfl
      split <;> rfl
    all_goals rfl
  · rfl
  · rfl

theorem Overlay.afterSendFailure : afterSendFailure (o.on s) = o.on (afterSendFailure s) := by
  have hcfg : (o.on s).cfg = s.cfg := rfl
  simp only [Machine.afterSendFailure, hcfg]
  split <;> rfl

theorem Overlay.transmitFails : transmitFails (o.on s) = o.on (transmitFails s) :=
  congrArg (transportFailure .kbTransmit (.sendKeypress false))
    (o.afterSendFailure { s with sendPhase := .none })

theorem Overlay.sendStep (key mod : Byte) (pos : SendPos) :
    sendStep key mod pos (o.on s) = o.on (sendStep key mod pos s) := by
  have hconf : (o.on s).configured = s.configured := rfl
  cases pos
  case t0 n =>
    simp only [Machine.sendStep, hconf]
    split
    · rfl
    · exact o.transmitFails s
  case t2 n saved deadline =>
    have hready : (o.on s).kbReady = s.kbReady := rfl
    simp only [Machine.sendStep, hready, pushReport]
    split
    · generalize Machine.pushReport s = u
      cases n <;> rfl
    · rfl
  case t4 n deadline =>
    simp only [Machine.sendStep, hconf]
    split
    · rfl
    · exact o.transmitFails s
  case t5 n deadline =>
    have hframe : (o.on s).frame = s.frame := rfl
    simp only [Machine.sendStep, hframe]
    split
    · exact o.transmitFails s
    · rfl
  all_goals rfl

theorem Overlay.execSendKeypress (key mod : Byte) :
    execSendKeypress key mod (o.on s) = mapNext o.on (execSendKeypress key mod s) := by
  have hin : (o.on s).inHandler = s.inHandler := rfl
  have hfg : (o.on s).fg = s.fg := rfl
  simp only [Machine.execSendKeypress, hin, hfg]
  split
  · rfl
  split
  · rfl
  · split
    · exact congrArg _ (o.sendStep s ..)
    · rfl
  · rfl
  · rfl

theorem Overlay.execHasConfigured :
    execHasConfigured (o.on s) = mapNext o.on (execHasConfigured s) := by
  have hin : (o.on s).inHandler = s.inHandler := rfl
  have hfg : (o.on s).fg = s.fg := rfl
  simp only [Machine.execHasConfigured, hin, hfg]
  split <;> rfl

/-- An operation commutes with other values in registers it does not own. -/
theorem Overlay.exec {o : Overlay} {i : Instr} (h : o.Spares i) (s : State) :
    exec i (o.on s) = mapNext o.on (exec i s) := by
  cases i <;> simp only [Machine.exec]
  case tick => exact o.execTick s (h.keys rfl)
  case kpTake => exact o.execKpTake s (h.keys rfl)
  case giEorst => exact o.execGiEorst s (h.protocol rfl)
  case giSof => exact o.execGiSof s
  case epInt => exact o.execEpInt s _
  case setAddress => exact o.execSetAddress s (h.address rfl)
  case getDescriptorDevice => exact o.getDescriptor s ..
  case getDescriptorInterface => exact o.getDescriptor s ..
  case setConfiguration => exact o.execSetConfiguration s ..
  case getProtocol =>
    have hp : (o.on s).protocol = s.protocol := congrFun (h.protocol rfl) s.protocol
    simp only [execGetProtocol, hp, o.controlIn, mapNext_next]
  case setProtocol =>
    simp only [execSetProtocol_eq, mapNext_next, on, h.protocol rfl, id]
    rfl
  case usbSetup => exact o.execUsbSetup s
  case sendKeypress => exact o.execSendKeypress s ..
  case hasConfigured => exact o.execHasConfigured s
  case setIdle => rfl
  case stall => rfl
  -- the other requests answer with a data stage over a reply that no such register enters
  all_goals exact congrArg _ (o.controlIn s ..)

/-! ### Registers that an operation does not own -/

/-- Settles O22: the key decoder's registers are put in, and `protocol` and the address stay. -/
theorem hidEngineCannotSeeTheKeyDecoder : Obligations.HidEngineCannotSeeTheKeyDecoder :=
  fun _ s m c o hi =>
    Overlay.exec
      (o := { keyMask := fun _ => m, kpCell := fun _ => c, kpOverrun := fun _ => o })
      ⟨fun hk => absurd hk (by simp [hi]), fun _ => rfl, fun _ => ⟨rfl, rfl⟩⟩ s

/-- Settles O58: another `protocol` is put in. -/
theorem protocolHasNoOtherEffect : Obligations.ProtocolHasNoOtherEffect := by
  intro i s p hget hset heorst
  have huses : usesProtocol i = false := by
    cases i
    case getProtocol v l => exact absurd rfl (hget v l)
    case setProtocol v l => exact absurd rfl (hset v l)
    case giEorst => exact absurd rfl heorst
    all_goals rfl
  exact Overlay.exec (o := { protocol := fun _ => p })
    ⟨fun _ => ⟨rfl, rfl, rfl⟩, fun hp => absurd hp (by simp [huses]), fun _ => ⟨rfl, rfl⟩⟩ s

/-- What an operation that commutes with putting back the registers' own values leaves in them. -/
theorem Overlay.exec_unchanged {o : Overlay} {i : Instr} {s t : State} (h : o.Spares i)
    (hs : o.on s = s) (hexec : Machine.exec i s = .next t) : o.on t = t := by
  have hcomm := Overlay.exec h s
  rw [hs, hexec] at hcomm
  exact (Host.Outcome.next.inj hcomm).symm

/-- The key decoder's three registers stand as they were. -/
def KeysKept (s t : State) : Prop :=
  t.keyMask = s.keyMask ∧ t.kpCell = s.kpCell ∧ t.kpOverrun = s.kpOverrun

/-- An operation of the HID engine writes none of the key decoder's registers (R52). -/
theorem exec_keysKept {i : Instr} {s t : State} (hi : isKcd i = false) (h : exec i s = .next t) :
    KeysKept s t := by
  have hback := Overlay.exec_unchanged
    (o := { keyMask := fun _ => s.keyMask, kpCell := fun _ => s.kpCell
            kpOverrun := fun _ => s.kpOverrun })
    ⟨fun hk => absurd hk (by simp [hi]), fun _ => rfl, fun _ => ⟨rfl, rfl⟩⟩ rfl h
  exact ⟨(congrArg State.keyMask hback).symm, (congrArg State.kpCell hback).symm,
    (congrArg State.kpOverrun hback).symm⟩

/-- Settles O21: what `TICK` and `KP_TAKE` answer, and that the HID engine writes no key register. -/
theorem theTwoHalvesShareNoRegister : Obligations.TheTwoHalvesShareNoRegister := by
  intro i s t h
  refine ⟨fun hi => ?_, fun hi => exec_keysKept hi h⟩
  cases i <;> simp only [exec] at h
  case tick => rcases execTick_cases h with ⟨_, rfl⟩ | ⟨_, rfl⟩ <;> rfl
  case kpTake => rcases execKpTake_cases h with ⟨_, ⟨_, rfl⟩ | ⟨_, _, rfl⟩⟩ <;> rfl
  all_goals cases hi

/-- Settles O57: every operation but `SET_ADDRESS` leaves the address, and that one writes it at its
hold only. -/
theorem onlySetAddressWritesTheAddress : Obligations.OnlySetAddressWritesTheAddress := by
  intro i s t h hchanged
  cases hi : isSetAddress i
  case false =>
    have hback := Overlay.exec_unchanged
      (o := { devAddr := fun _ => s.devAddr, addrEn := fun _ => s.addrEn })
      ⟨fun _ => ⟨rfl, rfl, rfl⟩, fun _ => rfl, fun ha => absurd ha (by simp [hi])⟩ rfl h
    exact (hchanged.elim (· (congrArg State.devAddr hback).symm)
      (· (congrArg State.addrEn hback).symm)).elim
  case true =>
    cases i
    case setAddress v ix l =>
      rcases execSetAddress_cases (v := v) (ix := ix) (l := l) h with
        ⟨_, rfl⟩ | ⟨addr, polls, hphase, rfl | rfl⟩
      · exact (hchanged.elim (· rfl) (· rfl)).elim
      · exact ⟨v, ix, l, addr, polls, rfl, hphase, rfl, rfl⟩
      · exact (hchanged.elim (· rfl) (· rfl)).elim
    all_goals cases hi

end Sys2Proof.Machine
end

section
/-! SUPPORT. Who writes the key decoder's registers and `configuration` (R22, R24, R133, R138): of the
operations, and of the steps of the machine. -/

namespace Sys2Proof.Machine

variable {s t : State}

/-! ### What A_EP and the foreground run -/

/-- An operation of format S, where the word is `w`: one of the rows, or the default row. -/
def IsRequest (w : Setup64) (i : Instr) : Prop := (setupRowOf i).isSome = true ∨ i = .stall w

/-- A SETUP word selects a row of the dispatch table or the default row (R103, R105). -/
theorem decodeSetup_request (kbIf : Half) (w : Setup64) : IsRequest w (decodeSetup kbIf w) := by
  unfold decodeSetup
  iterate 11 refine iteInduction (motive := IsRequest w) (fun _ => .inl rfl) fun _ => ?_
  exact .inr rfl

/-- So it selects no operation of an interrupt. -/
theorem decodeSetup_ne_of_no_row {kbIf : Half} {w : Setup64} {i : Instr}
    (hrow : setupRowOf i = none) (hstall : ∀ v, i ≠ .stall v) : decodeSetup kbIf w ≠ i := by
  rintro rfl
  rcases decodeSetup_request kbIf w with h | h
  · simp [hrow] at h
  · exact hstall w h

/-! ### The cell and its overrun marker -/

/-- No Keypress is recorded: `kp_overrun` stays, and the cell stays or is emptied. -/
def NoEmission (s t : State) : Prop :=
  t.kpOverrun = s.kpOverrun ∧ (t.kpCell = s.kpCell ∨ t.kpCell = 0)

/-- One Keypress is recorded: what latched with everything released (R133). -/
def Emission (s t : State) : Prop :=
  latchedAfter 0 s.keyMask ≠ 0 ∧ t.keyMask = 0 ∧ t.kpOverrun = (s.kpOverrun || s.cellFull) ∧
    t.kpCell = emittedCell s.cfg.overrunPolicy s.kpCell (latchedAfter 0 s.keyMask)

theorem KeysKept.noEmission (h : KeysKept s t) : NoEmission s t :=
  ⟨h.2.2, .inl h.2.1⟩

theorem Emission.kpCell_of_empty (h : Emission s t) (hempty : s.kpCell = 0) :
    t.kpCell = latchedAfter 0 s.keyMask := by
  obtain ⟨_, _, _, hcell⟩ := h
  rw [hcell, emittedCell_eq, if_pos (.inr hempty)]

theorem Emission.full_of_overrun (h : Emission s t) (hs : s.kpOverrun = false)
    (ht : t.kpOverrun = true) : s.kpCell ≠ 0 := by
  obtain ⟨_, _, hover, _⟩ := h
  simpa [hover, hs, State.cellFull] using ht

theorem NoEmission.kpCell_of_empty (h : NoEmission s t) (hempty : s.kpCell = 0) : t.kpCell = 0 :=
  h.2.elim (·.trans hempty) id

/-- Of the operations only a `TICK` with nothing pressed records a Keypress. -/
theorem exec_emission {i : Instr} (h : exec i s = .next t) :
    NoEmission s t ∨ (i = .tick 0 ∧ Emission s t) := by
  cases hi : isKcd i
  case false => exact .inl (exec_keysKept hi h).noEmission
  case true =>
    cases i
    case tick sw =>
      simp only [exec, execTick_eq] at h
      cases h
      split
      · rename_i hend
        obtain ⟨rfl, hlatched⟩ := hend
        exact .inr ⟨rfl, hlatched, rfl, rfl, rfl⟩
      · exact .inl ⟨rfl, .inl rfl⟩
    case kpTake =>
      left
      rcases execKpTake_cases h with ⟨_, ⟨_, rfl⟩ | ⟨v, _, rfl⟩⟩
      · exact ⟨rfl, .inl rfl⟩
      · refine ⟨rfl, ?_⟩
        dsimp only
        split
        · exact .inl rfl
        · exact .inr rfl
    all_goals cases hi

/-- The handlers other than `A_TICK` run no operation of the key decoder. -/
theorem runAll_keysKept {kbIf : Half} {hd : Handler} {a u : State} (hhd : hd ≠ .tick)
    (h : runAll (operationsOf kbIf (handlerWord hd s)) a = .next u) : KeysKept a u := by
  refine runAll_keeps_of_mem (P := KeysKept a) (fun i hi b c hexec hb => ?_) h ⟨rfl, rfl, rfl⟩
  have hkept : KeysKept b c := by
    rcases mem_operationsOf_handlerWord hi with
      ⟨rfl, _⟩ | ⟨_, _, rfl⟩ | ⟨_, _, rfl⟩ | ⟨_, rfl⟩
    · exact absurd rfl hhd
    all_goals exact exec_keysKept rfl hexec
  obtain ⟨hmask, hcell, hover⟩ := hkept
  obtain ⟨hmask', hcell', hover'⟩ := hb
  exact ⟨hmask.trans hmask', hcell.trans hcell', hover.trans hover'⟩

/-- Only the start of `A_TICK` with nothing pressed at the port records a Keypress. -/
theorem step_emission (h : step s = .next t) :
    NoEmission s t ∨ (s.starts .tick ∧ s.sw = 0 ∧ Emission s t) := by
  obtain ⟨a, ⟨sched, draws, rfl⟩, hmove⟩ := step_moves h
  rcases hmove with
    ⟨e, rfl⟩ | rfl | ⟨hd, u, hstart, hrun, rfl⟩ | ⟨_, _, u, hexec, rfl⟩ | ⟨c, hexec⟩
  · left
    rw [applyEnv_frame]
    exact ⟨rfl, .inl rfl⟩
  · exact .inl ⟨rfl, .inl rfl⟩
  · cases hd
    case tick =>
      rw [operationsOf_tick, runAll_singleton] at hrun
      rcases exec_emission hrun with hno | ⟨hi, hemit⟩
      · exact .inl hno
      · exact .inr ⟨hstart, Instr.tick.inj hi, hemit⟩
    case gen => exact .inl (runAll_keysKept (by simp) hrun).noEmission
    case ep =>
      left
      exact afterStart_keeps (P := NoEmission s) (fun _ hu => hu) _ _
        (runAll_keysKept (by simp) hrun).noEmission
  · left
    refine afterRequest_keeps (P := NoEmission s) (fun _ hu => hu) ?_
    exact (exec_emission hexec).resolve_right
      fun ⟨hi, _⟩ => decodeSetup_ne_of_no_row rfl (by simp) hi
  · left
    exact (exec_emission hexec).resolve_right fun ⟨hi, _⟩ => by cases c <;> cases hi

/-- Settles O19: a cell that was empty is filled by an emission, with what latched. -/
theorem onlyAnEmissionFillsTheCell : Obligations.OnlyAnEmissionFillsTheCell := by
  refine ⟨fun i s t h hempty hfull => ?_, fun s t h hempty hfull => ?_⟩
  · rcases exec_emission h with hno | ⟨rfl, hemit⟩
    · exact absurd (hno.kpCell_of_empty hempty) hfull
    · exact ⟨rfl, hemit.kpCell_of_empty hempty, hemit.2.1⟩
  · rcases step_emission h with hno | ⟨hstart, hsw, hemit⟩
    · exact absurd (hno.kpCell_of_empty hempty) hfull
    · exact ⟨hstart, hsw, hemit.kpCell_of_empty hempty, hemit.2.1⟩

/-- Settles O20: the marker stays but for an emission, which sets it where the cell was full. -/
theorem overrunIsStickyAndHonest : Obligations.OverrunIsStickyAndHonest := by
  refine ⟨fun s t h hs => ?_, fun i s t h hs ht => ?_, fun s t h hs ht => ?_⟩
  · rcases step_emission h with ⟨hover, _⟩ | ⟨_, _, _, _, hover, _⟩
    · exact hover.trans hs
    · rw [hover, hs, Bool.true_or]
  · rcases exec_emission h with ⟨hover, _⟩ | ⟨rfl, hemit⟩
    · exact absurd (ht.symm.trans (hover.trans hs)) (by decide)
    · exact ⟨rfl, hemit.1, hemit.2.1, hemit.full_of_overrun hs ht⟩
  · rcases step_emission h with ⟨hover, _⟩ | ⟨hstart, hsw, hemit⟩
    · exact absurd (ht.symm.trans (hover.trans hs)) (by decide)
    · exact ⟨hstart, hsw, hemit.1, hemit.2.1, hemit.full_of_overrun hs ht⟩

/-! ### `configuration` (R24) -/

theorem RequestStep.configuration (h : RequestStep s t) : t.configuration = s.configuration := by
  rcases h with ⟨_, _, rfl⟩ | ⟨_, _, _, _, _, _, rfl | ⟨_, rfl⟩ | ⟨_, _, rfl⟩⟩ <;> rfl

theorem getDescriptor_configuration {v l : Half} (h : getDescriptor v l s = .next t) :
    t.configuration = s.configuration := by
  rcases getDescriptor_cases h with rfl | h
  · rfl
  · exact h.configuration

/-- No foreground command writes `configuration`. -/
theorem execCommand_configuration {c : Command} (h : exec c.toInstr s = .next t) :
    t.configuration = s.configuration := by
  cases c <;> simp only [Command.toInstr, exec] at h
  case kpTake => rcases execKpTake_cases h with ⟨_, ⟨_, rfl⟩ | ⟨_, _, rfl⟩⟩ <;> rfl
  case usbSetup =>
    rcases (execUsbSetup_cases h).2 with
      ⟨_, _, rfl⟩ | ⟨_, rfl⟩ | ⟨_, _, rfl | ⟨_, rfl⟩ | rfl⟩ | ⟨_, rfl⟩ | ⟨_, rfl⟩ | ⟨_, rfl⟩ <;> rfl
  case sendKeypress =>
    rcases (execSendKeypress_cases h).2 with
      ⟨_, rfl⟩ | ⟨_, rfl⟩ | ⟨_, _, ⟨_, rfl⟩ | ⟨_, ⟨_, rfl⟩ | ⟨_, rfl⟩⟩⟩ | ⟨_, _, rfl⟩ |
      ⟨_, _, _, _, ⟨_, rfl⟩ | ⟨_, _, _, _, rfl⟩⟩ | ⟨_, _, _, _, rfl⟩ |
      ⟨_, _, _, ⟨_, rfl⟩ | ⟨_, ⟨_, rfl⟩ | ⟨_, rfl⟩⟩⟩ |
      ⟨_, _, _, ⟨_, rfl⟩ | ⟨_, ⟨_, rfl⟩ | ⟨_, rfl⟩⟩⟩ | ⟨_, _, _, rfl⟩ | ⟨_, rfl⟩ | ⟨_, rfl⟩ <;> rfl
  case hasConfigured => rw [(execHasConfigured_cases h).2]

/-- Of the operations only end-of-reset and `SET_CONFIGURATION(1)` write `configuration`. -/
theorem exec_configuration {i : Instr} (h : exec i s = .next t) :
    t.configuration = s.configuration ∨ (i = .giEorst ∧ t.configuration = 0) ∨
      (∃ ix l, i = .setConfiguration 1 ix l ∧ t.configuration = 1) := by
  cases i
  case giEorst =>
    rcases execGiEorst_cases h with ⟨_, rfl⟩ | ⟨_, rfl⟩ <;> exact .inr (.inl ⟨rfl, rfl⟩)
  case setConfiguration v ix l =>
    rcases execSetConfiguration_cases (v := v) (ix := ix) (l := l) h with ⟨rfl, rfl⟩ | ⟨_, rfl⟩
    · exact .inr (.inr ⟨ix, l, rfl, rfl⟩)
    · exact .inl rfl
  all_goals left
  case tick => rcases execTick_cases h with ⟨_, rfl⟩ | ⟨_, rfl⟩ <;> rfl
  case kpTake => exact execCommand_configuration (c := .kpTake) h
  case giSof =>
    rcases execGiSof_cases h with rfl | ⟨_, rfl | ⟨_, _, _, rfl⟩ | ⟨_, _, _, rfl⟩⟩ <;> rfl
  case epInt => rcases execEpInt_cases h with ⟨_, rfl⟩ | ⟨_, _, _, rfl⟩ <;> rfl
  case setAddress v ix l =>
    rcases execSetAddress_cases (v := v) (ix := ix) (l := l) h with
      ⟨_, rfl⟩ | ⟨_, _, _, rfl | rfl⟩ <;> rfl
  case getDescriptorDevice => exact getDescriptor_configuration h
  case getDescriptorInterface => exact getDescriptor_configuration h
  case setIdle v l => cases h; rfl
  case setProtocol v l => cases h; rfl
  case stall w => cases h; rfl
  case usbSetup => exact execCommand_configuration (c := .usbSetup) h
  case sendKeypress key mod => exact execCommand_configuration (c := .sendKeypress key mod) h
  case hasConfigured => exact execCommand_configuration (c := .hasConfigured) h
  all_goals exact (controlIn_cases (Host.Outcome.next.inj h)).configuration

/-- A starting handler leaves `configuration`, or it is `A_GEN` with the end-of-reset cause. -/
theorem runAll_configuration {kbIf : Half} {hd : Handler} {a u : State}
    (h : runAll (operationsOf kbIf (handlerWord hd s)) a = .next u) :
    u.configuration = a.configuration ∨
      (hd = .gen ∧ s.causeEorst = true ∧ u.configuration = 0) := by
  refine runAll_keeps_of_mem
    (P := fun b => b.configuration = a.configuration ∨
      (hd = .gen ∧ s.causeEorst = true ∧ b.configuration = 0))
    (fun i hi b c hexec hb => ?_) h (.inl rfl)
  rcases exec_configuration hexec with hsame | ⟨rfl, hzero⟩ | ⟨ix, l, rfl, _⟩
  · rw [hsame]
    exact hb
  · rcases mem_operationsOf_handlerWord hi with ⟨_, h⟩ | ⟨hgen, hcause, _⟩ | ⟨_, _, h⟩ | ⟨_, h⟩
    case inr.inl => exact .inr ⟨hgen, hcause, hzero⟩
    all_goals cases h
  · rcases mem_operationsOf_handlerWord hi with ⟨_, h⟩ | ⟨_, _, h⟩ | ⟨_, _, h⟩ | ⟨_, h⟩ <;> cases h

@[simp] theorem afterStart_configuration (hd : Handler) (rxstp : Bool) (u : State) :
    (afterStart hd rxstp u).configuration = u.configuration :=
  afterStart_keeps (P := fun v => v.configuration = u.configuration) (fun _ hv => hv) hd rxstp rfl

@[simp] theorem afterRequest_configuration (u : State) :
    (afterRequest u).configuration = u.configuration :=
  afterRequest_keeps (P := fun v => v.configuration = u.configuration) (fun _ hv => hv) rfl

@[simp] theorem enterHandler_configuration (hd : Handler) (u : State) :
    (enterHandler hd u).configuration = u.configuration := by
  cases hd <;> rfl

/-- Settles O55: of the operations `exec_configuration`; of the steps, `A_GEN` runs the one and `A_EP`
serves the other. -/
theorem onlyTwoOperationsWriteConfiguration : Obligations.OnlyTwoOperationsWriteConfiguration := by
  refine ⟨fun i s t h hne => ?_, fun s t h hne => ?_⟩
  · rcases exec_configuration h with hsame | hzero | ⟨ix, l, hi, hone⟩
    · exact absurd hsame hne
    · exact .inl hzero
    · exact .inr ⟨1, ix, l, hi, rfl, hone⟩
  · obtain ⟨a, ⟨sched, draws, rfl⟩, hmove⟩ := step_moves h
    rcases hmove with
      ⟨e, rfl⟩ | rfl | ⟨hd, u, hstart, hrun, rfl⟩ | ⟨hadv, hin, u, hexec, rfl⟩ | ⟨c, hexec⟩
    · exact absurd (congrArg State.configuration (applyEnv_frame e _)) hne
    · exact absurd rfl hne
    · rcases runAll_configuration hrun with hsame | ⟨rfl, hcause, hzero⟩
      · exact absurd (by rw [afterStart_configuration, hsame, enterHandler_configuration]) hne
      · exact .inl ⟨hstart, hcause, by rw [afterStart_configuration, hzero]⟩
    · rcases exec_configuration hexec with hsame | ⟨hi, _⟩ | ⟨ix, l, hi, hone⟩
      · exact absurd (by rw [afterRequest_configuration, hsame]) hne
      · exact absurd hi (decodeSetup_ne_of_no_row rfl (by simp))
      · exact .inr ⟨hadv, hin, by rw [afterRequest_configuration, hone], ix, l, hi⟩
    · exact absurd (execCommand_configuration hexec) hne

end Sys2Proof.Machine
end

section
/-! SUPPORT. The invariant of R49 is kept: by each write that operations share, by each operation, by
each event of the environment, and so by every step.  Interrupts inside the window rest on log
entry 17, the banks on log entries 13 and 39. -/

namespace Sys2Proof.Machine

variable {s t : State}

/-! ### Packets sent -/

theorem sentOn_append (ep : BitVec 4) (log : List Packet) (p : Packet) :
    sentOn ep (log ++ [p]) = sentOn ep log ++ if p.ep = ep then [p.bytes] else [] := by
  by_cases h : p.ep = ep <;> simp [sentOn, h]

/-- What was sent on an endpoint stands before what is sent there later (R79). -/
theorem sublist_sentOn_append {ep : BitVec 4} {log : List Packet} {held : List (List Byte)}
    (h : held.Sublist (sentOn ep log)) (p : Packet) : held.Sublist (sentOn ep (log ++ [p])) := by
  rw [sentOn_append]
  exact h.trans (List.sublist_append_left _ _)

/-- A packet that fills a bank of its endpoint stands behind the packets sent there before. -/
theorem fillBank_sublist_sentOn {ep : BitVec 4} {log : List Packet} {held : List (List Byte)}
    (banks sent : Nat) (h : held.Sublist (sentOn ep log)) (bytes : List Byte) :
    (fillBank banks sent held bytes).Sublist (sentOn ep (log ++ [⟨ep, bytes⟩])) := by
  rw [sentOn_append, if_pos rfl]
  exact (fillBank_sublist banks sent held bytes).trans (h.append_right [bytes])

theorem forall_mem_log_append {log : List Packet} {kbEp : BitVec 4} {p : Packet}
    (h : ∀ q ∈ log, q.ok kbEp = true) (hp : p.ok kbEp = true) :
    ∀ q ∈ log ++ [p], q.ok kbEp = true := by
  intro q hq
  rcases List.mem_append.1 hq with hq | hq
  · exact h q hq
  · rwa [List.mem_singleton.1 hq]

/-- `EpSend(0)` of at most 32 bytes keeps the invariant. -/
theorem MachineInv.sentEp0 (h : MachineInv s) {bytes : List Byte}
    (hlen : bytes.length ≤ Config.ep0Size) :
    MachineInv { s with
      txLog := s.txLog ++ [⟨0, bytes⟩], ep0Banks := s.ep0Filled bytes, ep0Tx := []
      ep0Txini := false } :=
  { h with
    fifos := ⟨rfl, h.fifos.2⟩
    ep0Sizes := ⟨h.ep0Sizes.1, fillBank_length_le _ _ _ _,
      fun _ hp => fillBank_fits h.ep0Sizes.2.2 hlen hp⟩
    order := ⟨fillBank_sublist_sentOn _ _ h.order.1 bytes, sublist_sentOn_append h.order.2 _⟩
    log := forall_mem_log_append h.log (by simpa [Packet.ok] using .inl hlen) }

/-- `EpSend(KB_EP)` of a report keeps the invariant. -/
theorem MachineInv.sentKb (h : MachineInv s) {bytes : List Byte}
    (hlen : bytes.length = Config.reportLen) :
    MachineInv { s with
      txLog := s.txLog ++ [⟨s.cfg.kbEp, bytes⟩], kbBanks := s.kbFilled bytes, kbTx := []
      kbRwal := false } :=
  { h with
    fifos := ⟨h.fifos.1, rfl⟩
    kbSizes := ⟨fillBank_length_le _ _ _ _,
      fun _ hp => fillBank_fits h.kbSizes.2 hlen.le hp⟩
    order := ⟨sublist_sentOn_append h.order.1 _, fillBank_sublist_sentOn _ _ h.order.2 bytes⟩
    log := forall_mem_log_append h.log (by simpa [Packet.ok] using .inr hlen) }

/-- While a handler runs, `A_EP` may go to any phase that is within its data. -/
theorem MachineInv.atPhase (h : MachineInv s) (hin : s.inHandler = true) {phase : CtlPhase}
    (hok : phase.ok = true) : MachineInv { s with ctlPhase := phase } :=
  { h with
    noHold := fun hout => absurd (hin.symm.trans hout) (by decide)
    phase := hok }

/-- `A_EP` may stand at no hold, a handler running or not. -/
theorem MachineInv.atIdle (h : MachineInv s) : MachineInv { s with ctlPhase := .idle } :=
  { h with noHold := fun _ => rfl, phase := rfl }

/-! ### Data stages -/

theorem CtlPhase.ok_dataIn {data : List Byte} {off len wlen polls : Nat} :
    (CtlPhase.dataIn data off len wlen polls).ok = true ↔
      off ≤ len ∧ len ≤ data.length ∧ len ≤ wlen ∧ off % 32 = 0 := by
  simp [CtlPhase.ok, and_assoc]

theorem stageStart_ok (data : List Byte) (wLength : Half) : (stageStart data wLength).ok = true :=
  CtlPhase.ok_dataIn.2 ⟨Nat.zero_le _, Nat.min_le_left _ _, Nat.min_le_right _ _, rfl⟩

/-- A packet that does not end the stage is a whole one (R171). -/
theorem min_eq_of_not_dataStageDone {off len wlen : Nat} (hle : off ≤ len)
    (h : dataStageDone (off + min (len - off) 32) (min (len - off) 32) len wlen = false) :
    min (len - off) 32 = 32 := by
  by_contra hshort
  have hn : min (len - off) 32 = len - off := by omega
  have hlt : len - off < 32 := by omega
  simp [dataStageDone, hn, Nat.add_sub_cancel' hle, Config.ep0Size, hlt] at h

/-- One call of a request with a data stage keeps the invariant: the stage is not past its length, and
whole packets have gone out. -/
theorem MachineInv.requestStep (h : MachineInv s) (hin : s.inHandler = true)
    (hstep : RequestStep s t) : MachineInv t := by
  rcases hstep with ⟨data, wLength, rfl⟩ | ⟨data, off, len, wlen, polls, hphase, hstage⟩
  · exact h.atPhase hin (stageStart_ok data wLength)
  have hok := h.phase
  rw [hphase, CtlPhase.ok_dataIn] at hok
  rcases hstage with rfl | ⟨p, rfl⟩ | ⟨phase, hnext, rfl⟩
  · exact h.atIdle
  · exact h.atPhase hin (CtlPhase.ok_dataIn.2 hok)
  · rw [h.fifos.1, List.nil_append]
    refine (h.sentEp0 (chunk_length_le data off len)).atPhase hin ?_
    rcases hnext with rfl | ⟨rfl, hmore⟩
    · rfl
    · obtain ⟨hoff, hdata, hwlen, hwhole⟩ := hok
      have hn := min_eq_of_not_dataStageDone hoff hmore
      exact CtlPhase.ok_dataIn.2 ⟨by omega, hdata, hwlen, by omega⟩

/-! ### The operations of the handlers -/

theorem MachineInv.tick (h : MachineInv s) {sw : BitVec 3} (hexec : execTick sw s = .next t) :
    MachineInv t := by
  rcases execTick_cases hexec with ⟨_, rfl⟩ | ⟨_, rfl⟩
  · exact { h with maskTop := (by decide : (0 : BitVec 8).extractLsb' 6 2 = 0) }
  · exact { h with maskTop := (topBits_keyLoop sw s.keyMask).trans h.maskTop }

theorem MachineInv.giEorst (h : MachineInv s) (hexec : execGiEorst s = .next t) :
    MachineInv t := by
  rcases execGiEorst_cases hexec with ⟨_, rfl⟩ | ⟨_, rfl⟩
  · exact { h with configuration := .inl rfl, kbEnabled := Bool.noConfusion }
  · exact { h with
      keySlots := by simp
      configuration := .inl rfl
      kbEnabled := Bool.noConfusion
      idle := .inl rfl }

/-- An idle unit that is not the last leaves `idle_count` below `idle_config` (R152, D27). -/
theorem idleCount_succ_lt {count config : Byte} (h : count = 0 ∨ count < config) (hc : config ≠ 0)
    (hne : count + 1 ≠ config) : count + 1 < config := by
  bv_omega

theorem MachineInv.giSof (h : MachineInv s) (hexec : execGiSof s = .next t) : MachineInv t := by
  rcases execGiSof_cases hexec with
    rfl | ⟨⟨_, hconfig⟩, rfl | ⟨_, _, hne, rfl⟩ | ⟨_, _, _, rfl⟩⟩
  · exact h
  · exact { h with }
  · exact { h with idle := .inr (idleCount_succ_lt h.idle hconfig hne) }
  · rw [h.fifos.2, List.nil_append]
    exact { h.sentKb (buildReport_length s) with idle := .inl rfl }

theorem MachineInv.epInt (h : MachineInv s) {rxstp : Bool} (hexec : execEpInt rxstp s = .next t) :
    MachineInv t := by
  rcases execEpInt_cases hexec with ⟨_, rfl⟩ | ⟨_, _, _, rfl⟩
  · exact { h.atIdle with }
  · exact { h.atIdle with
      fifos := ⟨rfl, h.fifos.2⟩
      ep0Sizes := ⟨Nat.zero_le _, Nat.zero_le _, by simp⟩
      order := ⟨List.nil_sublist _, h.order.2⟩ }

theorem MachineInv.setAddress (h : MachineInv s) (hin : s.inHandler = true) {v ix l : Half}
    (hexec : execSetAddress v ix l s = .next t) : MachineInv t := by
  rcases execSetAddress_cases hexec with ⟨_, rfl⟩ | ⟨addr, polls, _, rfl | rfl⟩
  · exact (h.sentEp0 (by simp [h.fifos.1])).atPhase hin rfl
  · exact { h.atIdle with }
  · exact h.atPhase hin rfl

theorem MachineInv.getDescriptor (h : MachineInv s) (hin : s.inHandler = true) {v l : Half}
    (hexec : getDescriptor v l s = .next t) : MachineInv t := by
  rcases getDescriptor_cases hexec with rfl | hstep
  · exact { h.atIdle with }
  · exact h.requestStep hin hstep

theorem MachineInv.setConfiguration (h : MachineInv s) {v ix l : Half}
    (hexec : execSetConfiguration v ix l s = .next t) : MachineInv t := by
  rcases execSetConfiguration_cases hexec with ⟨_, rfl⟩ | ⟨_, rfl⟩
  · have hsent := h.sentEp0 (bytes := s.ep0Tx) (by simp [h.fifos.1])
    exact { hsent with
      configuration := .inr rfl
      kbEnabled := fun _ => rfl
      fifos := ⟨rfl, rfl⟩
      kbSizes := ⟨Nat.zero_le _, by simp⟩
      order := ⟨hsent.order.1, List.nil_sublist _⟩ }
  · exact { h.atIdle with }

/-! ### The foreground commands -/

theorem tail_toList_set_zero {α : Type} {n : Nat} (v : Vector α n) (x : α) (h : 0 < n) :
    (v.set 0 x).toList.tail = v.toList.tail := by
  rw [Vector.toList_set]
  cases v.toList <;> rfl

/-- The bring-up flags of R206, each on only after the one before it. -/
structure BringUpFlags (s : State) : Prop where
  pll : s.pllOn = true → s.padRegOn = true
  usb : s.usbOn = true → s.pllOn = true
  eorst : s.giEnEorst = true → s.usbOn = true
  sof : s.giEnEorst = s.giEnSof
  attached : s.attached = true → s.giEnEorst = true

/-- What the steps of `USB_SETUP` before this one have turned on (R206). -/
def SetupPos.Reached (s : State) : SetupPos → Prop
  | .step2 => s.padRegOn = true
  | .step3 _ => s.pllOn = true
  | .step4 => s.pllOn = true
  | .step5 => s.usbOn = true
  | .step6 => s.giEnEorst = true

theorem bringUpOk_iff :
    s.bringUpOk = true ↔
      BringUpFlags s ∧ ∀ pos, s.fg = .usbSetup pos → s.attached = false ∧ pos.Reached s := by
  have hflags : BringUpFlags s ↔
      (!s.pllOn || s.padRegOn) && (!s.usbOn || s.pllOn) && (!s.giEnEorst || s.usbOn) &&
        (s.giEnEorst == s.giEnSof) && (!s.attached || s.giEnEorst) := by
    simp only [Bool.and_eq_true, Bool.or_eq_true, Bool.not_eq_true', beq_iff_eq]
    constructor
    · rintro ⟨hpll, husb, heorst, hsof, hatt⟩
      grind
    · rintro ⟨⟨⟨⟨hpll, husb⟩, heorst⟩, hsof⟩, hatt⟩
      constructor <;> grind
  rw [State.bringUpOk, Bool.and_eq_true, hflags]
  refine and_congr_right fun _ => ?_
  cases hfg : s.fg
  case usbSetup pos => cases pos <;> simp [SetupPos.Reached, and_comm]
  all_goals simp

/-- With the foreground at a step, what that step builds on is the one thing to show. -/
theorem SetupPos.reached_of_at {pos : SetupPos} {u : State} (hatt : u.attached = false)
    (hpos : pos.Reached u) :
    ∀ pos', FgPos.usbSetup pos = .usbSetup pos' → u.attached = false ∧ pos'.Reached u := by
  rintro _ ⟨⟩
  exact ⟨hatt, hpos⟩

/-- A position outside `USB_SETUP`: with what `send_phase` and `int_enable` are there, the invariant
asks no more of it. -/
theorem MachineInv.atFg (h : MachineInv s) {fg : FgPos} {phase : SendPhase} {en : Bool}
    (hfg : ∀ pos, fg ≠ .usbSetup pos)
    (hsend : ({ s with fg := fg, sendPhase := phase, intEnable := en } : State).sendOk = true) :
    MachineInv { s with fg := fg, sendPhase := phase, intEnable := en } :=
  { h with
    send := hsend
    bringUp :=
      bringUpOk_iff.2 ⟨{ (bringUpOk_iff.1 h.bringUp).1 with }, fun pos hpos => absurd hpos (hfg pos)⟩ }

/-- A command that returns leaves no transmit under way. -/
theorem MachineInv.finished (h : MachineInv s) {phase : SendPhase} {en : Bool}
    {results : List Result} (hphase : phase = .none) :
    MachineInv { s with fg := .idle, sendPhase := phase, intEnable := en, results := results } :=
  { h.atFg (fg := .idle) (phase := phase) (en := en) (by simp) (by simp [State.sendOk, hphase]) with }

/-- A step of `SEND_KEYPRESS` may write the report fields, key slots 1 to 5 apart. -/
theorem MachineInv.atSend (h : MachineInv s) {key mod modifier : Byte} {keys : Vector Byte 6}
    {pos : SendPos} {phase : SendPhase} {en : Bool} (hkeys : keys.toList.tail = [0, 0, 0, 0, 0])
    (hsend : ({ s with fg := .send key mod pos, sendPhase := phase, intEnable := en } : State).sendOk =
      true) :
    MachineInv { s with
      modifierKeys := modifier, keyboardKeys := keys, fg := .send key mod pos, sendPhase := phase
      intEnable := en } :=
  { h.atFg (by simp) hsend with keySlots := hkeys }

theorem MachineInv.keySlots_set (h : MachineInv s) (key : Byte) :
    (s.keyboardKeys.set 0 key).toList.tail = [0, 0, 0, 0, 0] :=
  (tail_toList_set_zero _ key (by decide)).trans h.keySlots

theorem MachineInv.kpTake (h : MachineInv s) (hexec : execKpTake s = .next t) : MachineInv t := by
  have hsend := h.send
  rcases execKpTake_cases hexec with ⟨_, ⟨hfg, rfl⟩ | ⟨v, hfg, rfl⟩⟩ <;>
    simp only [State.sendOk, hfg, beq_iff_eq] at hsend
  · exact h.atFg (by simp) (by simp [State.sendOk, hsend])
  · exact { h.finished (phase := s.sendPhase) (en := s.intEnable)
      (results := s.results ++ [.kpTake v]) hsend with }

/-- Each step of `USB_SETUP` turns on what the next one builds on (R206). -/
theorem MachineInv.usbSetup (h : MachineInv s) (hexec : execUsbSetup s = .next t) :
    MachineInv t := by
  have hsend := h.send
  obtain ⟨hflags, hreached⟩ := bringUpOk_iff.1 h.bringUp
  rcases (execUsbSetup_cases hexec).2 with
    ⟨hfg, hatt, rfl⟩ | ⟨hfg, rfl⟩ | ⟨polls, hfg, hpoll⟩ | ⟨hfg, rfl⟩ | ⟨hfg, rfl⟩ | ⟨hfg, rfl⟩ <;>
    simp only [State.sendOk, hfg, beq_iff_eq] at hsend <;>
    have hfree : ∀ pos, ({ s with fg := .usbSetup pos } : State).sendOk = true := fun _ => by
      simp [State.sendOk, hsend]
  case inl =>
    exact { h with
      send := hfree .step2
      bringUp := bringUpOk_iff.2
        ⟨{ hflags with pll := fun _ => rfl }, SetupPos.reached_of_at hatt rfl⟩ }
  all_goals obtain ⟨hatt, hpos⟩ := hreached _ hfg
  · exact { h with
      send := hfree (.step3 0)
      bringUp := bringUpOk_iff.2
        ⟨{ hflags with pll := fun _ => hpos, usb := fun _ => rfl },
          SetupPos.reached_of_at hatt rfl⟩ }
  · rcases hpoll with rfl | ⟨_, rfl⟩ | rfl
    · exact h.finished hsend
    · exact { h with
        send := hfree .step4
        bringUp := bringUpOk_iff.2 ⟨{ hflags with }, SetupPos.reached_of_at hatt hpos⟩ }
    · exact { h with
        send := hfree (.step3 (polls + 1))
        bringUp := bringUpOk_iff.2 ⟨{ hflags with }, SetupPos.reached_of_at hatt hpos⟩ }
  · exact { h with
      send := hfree .step5
      bringUp := bringUpOk_iff.2
        ⟨{ hflags with usb := fun _ => hpos, eorst := fun _ => rfl },
          SetupPos.reached_of_at hatt rfl⟩ }
  · exact { h with
      send := hfree .step6
      bringUp := bringUpOk_iff.2
        ⟨{ hflags with eorst := fun _ => hpos, sof := rfl, attached := fun _ => rfl },
          SetupPos.reached_of_at hatt rfl⟩ }
  · have hup : MachineInv { s with attached := true, fg := .idle } :=
      { h with
        send := by simp [State.sendOk, hsend]
        bringUp := bringUpOk_iff.2 ⟨{ hflags with attached := fun _ => hpos }, by simp⟩ }
    exact { hup with }

theorem MachineInv.sendFails (h : MachineInv s) (hfails : SendFails s t) : MachineInv t := by
  rcases hfails with ⟨_, rfl⟩ | ⟨_, rfl⟩
  · exact h.finished rfl
  · exact { h.finished (phase := .none) (en := s.intEnable)
      (results := s.results ++ [.sendKeypress false]) rfl with keySlots := h.keySlots_set 0 }

/-- Interrupts are off from `t1` or `t6` to the end of `t2` or `t3`, and `TX_POLL` stands from `t3` on
until the transmit ends (R75, R210). -/
theorem MachineInv.sendKeypress (h : MachineInv s) {key mod : Byte}
    (hexec : execSendKeypress key mod s = .next t) : MachineInv t := by
  have hsend := h.send
  rcases (execSendKeypress_cases hexec).2 with
    ⟨hfg, rfl⟩ | ⟨hfg, rfl⟩ | ⟨n, hfg, hstep⟩ | ⟨n, hfg, rfl⟩ | ⟨n, saved, d, hfg, hstep⟩ |
    ⟨n, saved, d, hfg, rfl⟩ | ⟨n, d, hfg, hstep⟩ | ⟨n, d, hfg, hstep⟩ | ⟨n, d, hfg, rfl⟩ | ⟨hfg, rfl⟩ |
    ⟨hfg, rfl⟩ <;>
    simp only [State.sendOk, hfg, beq_iff_eq] at hsend
  -- the call, and step 2 of R208
  · exact h.atSend h.keySlots (by simp [State.sendOk, hsend])
  · exact h.atSend (h.keySlots_set key) (by simp [State.sendOk, hsend])
  -- t0 to t6 of R210
  · rcases hstep with ⟨_, rfl⟩ | ⟨_, hfails⟩
    · exact h.atSend h.keySlots (by simp [State.sendOk, hsend])
    · exact h.sendFails hfails
  · exact h.atSend h.keySlots (by simp [State.sendOk, hsend])
  · rcases hstep with ⟨_, rfl⟩ | ⟨_, fg, results, hgoes, rfl⟩
    · exact h.atSend h.keySlots (by simpa [State.sendOk] using hsend)
    · rw [h.fifos.2, List.nil_append]
      have hsent : MachineInv { s with
          txLog := s.txLog ++ [⟨s.cfg.kbEp, buildReport s⟩], kbBanks := s.kbFilled (buildReport s)
          kbTx := [], kbRwal := false, idleCount := 0 } :=
        { h.sentKb (buildReport_length s) with idle := .inl rfl }
      rcases hgoes with ⟨_, rfl, rfl⟩ | ⟨_, rfl, rfl⟩
      · exact hsent.atSend h.keySlots rfl
      · exact hsent.finished rfl
  · exact h.atSend h.keySlots (by simp [State.sendOk])
  · rcases hstep with ⟨_, rfl⟩ | ⟨_, hfails⟩
    · exact h.atSend h.keySlots (by simp [State.sendOk, hsend])
    · exact h.sendFails hfails
  · rcases hstep with ⟨_, rfl⟩ | ⟨_, hfails⟩
    · exact h.atSend h.keySlots (by simp [State.sendOk, hsend])
    · exact h.sendFails hfails
  · exact h.atSend h.keySlots (by simp [State.sendOk, hsend])
  -- steps 4 and 5 of R208
  · exact h.atSend h.keySlots (by simp [State.sendOk, hsend])
  · exact h.atSend (h.keySlots_set 0) (by simp [State.sendOk, hsend])

theorem MachineInv.command (h : MachineInv s) {c : Command} (hexec : exec c.toInstr s = .next t) :
    MachineInv t := by
  cases c
  case kpTake => exact h.kpTake hexec
  case usbSetup => exact h.usbSetup hexec
  case sendKeypress => exact h.sendKeypress hexec
  case hasConfigured =>
    rw [(execHasConfigured_cases hexec).2]
    exact { h with }

/-! ### Every operation -/

/-- Every operation keeps the invariant while a handler runs; what it holds at stays its own. -/
theorem MachineInv.exec (h : MachineInv s) (hin : s.inHandler = true) {i : Instr}
    (hexec : exec i s = .next t) : MachineInv t := by
  cases i
  case tick => exact h.tick hexec
  case kpTake => exact h.command (c := .kpTake) hexec
  case giEorst => exact h.giEorst hexec
  case giSof => exact h.giSof hexec
  case epInt => exact h.epInt hexec
  case setAddress v ix l => exact h.setAddress hin (v := v) (ix := ix) (l := l) hexec
  case getDescriptorDevice => exact h.getDescriptor hin hexec
  case getDescriptorInterface => exact h.getDescriptor hin hexec
  case setConfiguration v ix l => exact h.setConfiguration (v := v) (ix := ix) (l := l) hexec
  case setIdle v l =>
    cases hexec
    exact { h.sentEp0 (bytes := s.ep0Tx) (by simp [h.fifos.1]) with idle := .inl rfl }
  case setProtocol v l =>
    cases hexec
    exact { h.sentEp0 (bytes := s.ep0Tx) (by simp [h.fifos.1]) with }
  case stall w =>
    cases hexec
    exact { h.atIdle with }
  case usbSetup => exact h.command (c := .usbSetup) hexec
  case sendKeypress key mod => exact h.command (c := .sendKeypress key mod) hexec
  case hasConfigured => exact h.command (c := .hasConfigured) hexec
  all_goals exact h.requestStep hin (controlIn_cases (Host.Outcome.next.inj hexec))

/-! ### The environment -/

theorem MachineInv.setupArrives (h : MachineInv s) (w : Setup64) :
    MachineInv (setupArrives w s) := by
  obtain ⟨rx, draws, hrx, harrive⟩ := setupArrives_eq w s
  rw [harrive]
  exact { h with
    ep0Sizes := ⟨by simp [hrx, Config.ep0Size], Nat.zero_le _, by simp⟩
    order := ⟨List.nil_sublist _, h.order.2⟩ }

theorem MachineInv.collectPacket (h : MachineInv s) (ep : Ep) : MachineInv (collectPacket ep s) := by
  rcases collectPacket_cases ep s with hc | ⟨p, rest, hbanks, hc⟩ | ⟨p, rest, hbanks, hc⟩ <;> rw [hc]
  · exact h
  · obtain ⟨hrx, hcount, hsize⟩ := h.ep0Sizes
    have horder := h.order.1
    rw [hbanks] at hcount hsize horder
    exact { h with
      ep0Sizes := ⟨hrx, (Nat.le_succ _).trans hcount, fun q hq => hsize q (.tail p hq)⟩
      order := ⟨(List.sublist_cons_self p rest).trans horder, h.order.2⟩ }
  · obtain ⟨hcount, hsize⟩ := h.kbSizes
    have horder := h.order.2
    rw [hbanks] at hcount hsize horder
    exact { h with
      kbSizes := ⟨(Nat.le_succ _).trans hcount, fun q hq => hsize q (.tail p hq)⟩
      order := ⟨h.order.1, (List.sublist_cons_self p rest).trans horder⟩ }

/-- The environment keeps the invariant: what it writes of the block's own are the banks, which it only
empties, and `int_enable`, outside commands and so outside the window (log entry 17). -/
theorem MachineInv.applyEnv (h : MachineInv s) (e : EnvEvent) : MachineInv (applyEnv e s) := by
  cases e
  case eorst =>
    exact { h with
      ep0Sizes := ⟨h.ep0Sizes.1, Nat.zero_le _, by simp [Machine.applyEnv, busResetEnds]⟩
      kbSizes := ⟨Nat.zero_le _, by simp [Machine.applyEnv, busResetEnds]⟩
      order := ⟨List.nil_sublist _, List.nil_sublist _⟩ }
  case sof => exact { h with frame := Nat.mod_lt _ (Nat.two_pow_pos _) }
  case setup w => exact h.setupArrives w
  case epint =>
    rw [applyEnv_epint]
    exact { h with }
  case collect ep => exact h.collectPacket ep
  case rxFifo bs =>
    exact { h with ep0Sizes := ⟨List.length_take_le _ _, h.ep0Sizes.2⟩ }
  case enableInt =>
    rcases applyEnv_enableInt_cases s with he | ⟨⟨hfg, _⟩, he⟩ <;> rw [he]
    · exact h
    · have hsend := h.send
      simp only [State.sendOk, hfg] at hsend
      exact { h with send := by simpa [State.sendOk, hfg] using hsend }
  all_goals exact { h with }

/-! ### Handlers -/

theorem MachineInv.enterHandler (h : MachineInv s) (hd : Handler) : MachineInv (enterHandler hd s) := by
  cases hd <;> exact { h with noHold := by simp }

theorem MachineInv.leaveHandler (h : MachineInv s) (hidle : s.ctlPhase = .idle) :
    MachineInv (leaveHandler s) :=
  { h with noHold := fun _ => hidle }

theorem MachineInv.afterRequest (h : MachineInv s) : MachineInv (afterRequest s) := by
  unfold Machine.afterRequest
  split
  · exact h.leaveHandler ‹_›
  · exact h

theorem MachineInv.afterStart (h : MachineInv s) (hidle : s.ctlPhase = .idle) (hd : Handler)
    (rxstp : Bool) : MachineInv (afterStart hd rxstp s) := by
  cases hd
  case ep =>
    unfold Machine.afterStart
    dsimp only
    split
    · exact h
    · exact h.leaveHandler hidle
  all_goals exact h.leaveHandler hidle

/-- The operations that handlers start with end at no hold. -/
theorem runAll_keeps_inv {kbIf : Half} {hd : Handler} {a u : State} (h : MachineInv a)
    (hidle : a.ctlPhase = .idle)
    (hrun : runAll (operationsOf kbIf (handlerWord hd s)) a = .next u) :
    MachineInv u ∧ u.ctlPhase = .idle := by
  refine runAll_keeps_of_mem (P := fun b => MachineInv b ∧ b.ctlPhase = .idle)
    (fun i hi b c hexec hb => ?_) hrun ⟨h, hidle⟩
  obtain ⟨hb, hbidle⟩ := hb
  rcases mem_operationsOf_handlerWord hi with
    ⟨_, rfl⟩ | ⟨_, _, rfl⟩ | ⟨_, _, rfl⟩ | ⟨_, rfl⟩
  · refine ⟨hb.tick hexec, ?_⟩
    rcases execTick_cases hexec with ⟨_, rfl⟩ | ⟨_, rfl⟩ <;> exact hbidle
  · refine ⟨hb.giEorst hexec, ?_⟩
    rcases execGiEorst_cases hexec with ⟨_, rfl⟩ | ⟨_, rfl⟩ <;> exact hbidle
  · refine ⟨hb.giSof hexec, ?_⟩
    rcases execGiSof_cases hexec with
      rfl | ⟨_, rfl | ⟨_, _, _, rfl⟩ | ⟨_, _, _, rfl⟩⟩ <;> exact hbidle
  · refine ⟨hb.epInt hexec, ?_⟩
    rcases execEpInt_cases hexec with ⟨_, rfl⟩ | ⟨_, _, _, rfl⟩ <;> rfl

/-- Settles O48, move by move: between handlers `A_EP` stands at no hold, so a handler that starts
finds none and, but for `A_EP` with a request to serve, leaves none. -/
theorem stepKeepsTheInvariant : Obligations.StepKeepsTheInvariant := by
  intro s t h hstep
  obtain ⟨a, ⟨sched, draws, rfl⟩, hmove⟩ := step_moves hstep
  have ha : MachineInv { s with sched := sched, draws := draws } := { h with }
  rcases hmove with
    ⟨e, rfl⟩ | rfl | ⟨hd, u, hstart, hrun, rfl⟩ | ⟨_, hin, u, hexec, rfl⟩ | ⟨c, hexec⟩
  · exact ha.applyEnv e
  · exact ha
  · have hout : s.inHandler = false := by
      have hmay := hstart.2
      simp only [State.mayStart, Bool.and_eq_true, Bool.not_eq_true'] at hmay
      exact hmay.2
    have hidle : (enterHandler hd { s with sched := sched, draws := draws }).ctlPhase = .idle := by
      cases hd <;> exact h.noHold hout
    obtain ⟨hu, huidle⟩ := runAll_keeps_inv (ha.enterHandler hd) hidle hrun
    exact hu.afterStart huidle hd _
  · exact (ha.exec hin hexec).afterRequest
  · exact ha.command hexec

end Sys2Proof.Machine
end

section
/-! SUPPORT. No operation and no step ends in a fault (R61, R241). -/

namespace Sys2Proof.Machine

/-- The outcome is a next state or a refusal. -/
def NoFault (o : Host.Outcome State Fault Refusal) : Prop := ∀ r, o ≠ .fault r

@[simp] theorem noFault_next (s : State) : NoFault (.next s) := nofun

@[simp] theorem noFault_refused (r : Refusal) : NoFault (.refused r) := nofun

theorem NoFault.andThen {o : Host.Outcome State Fault Refusal}
    {f : State → Host.Outcome State Fault Refusal} (ho : NoFault o) (hf : ∀ s, NoFault (f s)) :
    NoFault (andThen o f) := by
  cases o with
  | next s => exact hf s
  | fault r => exact absurd rfl (ho r)
  | refused r => exact noFault_refused r

variable (s : State)

/-! ### The operations -/

/-- `GET_DESCRIPTOR`, the one reader of the descriptor ROM, reads an entry of the key it found, from
its first byte over its own length. -/
theorem getDescriptor_noFault (v l : Half) : NoFault (getDescriptor v l s) := by
  have hstart : NoFault (descriptorStart v l s) := by
    rw [descriptorStart_eq]
    exact noFault_next _
  unfold getDescriptor
  split
  · exact hstart
  · exact hstart
  · exact noFault_next _

theorem execGiSof_noFault : NoFault (execGiSof s) := by
  unfold execGiSof
  split <;> exact noFault_next _

theorem execEpInt_noFault (rxstp : Bool) : NoFault (execEpInt rxstp s) := by
  cases rxstp <;> exact noFault_next _

theorem execSetAddress_noFault (v ix l : Half) : NoFault (execSetAddress v ix l s) := by
  unfold execSetAddress
  split <;> exact noFault_next _

theorem execSetConfiguration_noFault (v ix l : Half) :
    NoFault (execSetConfiguration v ix l s) := by
  unfold execSetConfiguration
  split <;> exact noFault_next _

/-- A foreground command that cannot be taken up is refused (U6 to U8). -/
theorem execCommand_noFault (c : Command) : NoFault (exec c.toInstr s) := by
  cases c <;> simp only [Command.toInstr, exec]
  case kpTake =>
    unfold execKpTake
    split
    · exact noFault_refused _
    · split <;> simp
  case usbSetup =>
    unfold execUsbSetup
    split
    · exact noFault_refused _
    · split
      · split <;> simp
      · exact noFault_next _
      all_goals exact noFault_refused _
  case sendKeypress key mod =>
    unfold execSendKeypress
    split
    · exact noFault_refused _
    · split
      · exact noFault_next _
      · split <;> simp
      all_goals exact noFault_refused _
  case hasConfigured =>
    unfold execHasConfigured
    split <;> simp

theorem exec_noFault (i : Instr) : NoFault (exec i s) := by
  cases i
  case tick sw =>
    simp only [exec, execTick_eq]
    exact noFault_next _
  case giSof => exact execGiSof_noFault s
  case epInt rxstp => exact execEpInt_noFault s rxstp
  case setAddress v ix l => exact execSetAddress_noFault s v ix l
  case getDescriptorDevice v ix l => exact getDescriptor_noFault s v l
  case getDescriptorInterface v ix l => exact getDescriptor_noFault s v l
  case setConfiguration v ix l => exact execSetConfiguration_noFault s v ix l
  case kpTake => exact execCommand_noFault s .kpTake
  case usbSetup => exact execCommand_noFault s .usbSetup
  case sendKeypress key mod => exact execCommand_noFault s (.sendKeypress key mod)
  case hasConfigured => exact execCommand_noFault s .hasConfigured
  -- the other operations take every state to a next state
  all_goals exact noFault_next _

/-! ### The moves -/

theorem runAll_noFault (is : List Instr) : NoFault (runAll is s) := by
  induction is generalizing s with
  | nil => exact noFault_next s
  | cons i is ih => exact (exec_noFault s i).andThen ih

theorem startHandler_noFault (hd : Handler) : NoFault (startHandler hd s) := by
  unfold startHandler
  split
  · exact (runAll_noFault _ _).andThen fun _ => noFault_next _
  · exact noFault_next s

theorem advanceHandler_noFault : NoFault (advanceHandler s) := by
  unfold advanceHandler
  split
  · exact (runAll_noFault _ _).andThen fun _ => noFault_next _
  · exact noFault_next s

theorem advanceForeground_noFault : NoFault (advanceForeground s) := by
  unfold advanceForeground
  split
  · exact noFault_next s
  · split
    · exact noFault_next s
    · exact execCommand_noFault s _

theorem issueCommand_noFault (c : Command) : NoFault (issueCommand c s) := by
  unfold issueCommand
  split
  · exact noFault_next s
  · split
    · exact execCommand_noFault s c
    · exact noFault_refused _

theorem stepChoice_noFault (c : Choice) : NoFault (stepChoice c s) := by
  cases c with
  | env e => exact noFault_next _
  | start hd => exact startHandler_noFault s hd
  | advance => exact advanceHandler_noFault s
  | fg => exact advanceForeground_noFault s
  | issue c => exact issueCommand_noFault s c

/-- Settles O51, operation by operation and move by move: the one read of the descriptor ROM stays
inside its entry. -/
theorem nothingFaults : Obligations.NothingFaults :=
  ⟨fun i s => exec_noFault s i, fun s => stepChoice_noFault s.takeChoice s.nextChoice⟩

end Sys2Proof.Machine
end

section
/-! SUPPORT. `int_enable` and who waits for it (R73, R75, R210): who writes it, the polls of `TRANSMIT`
inside its window, and the moves that stay without effect while a handler runs or interrupts are
off. -/

namespace Sys2Proof.Machine

variable {s t : State}

/-! ### Who writes `int_enable` -/

theorem RequestStep.intEnable (h : RequestStep s t) : t.intEnable = s.intEnable := by
  rcases h with ⟨_, _, rfl⟩ | ⟨_, _, _, _, _, _, rfl | ⟨_, rfl⟩ | ⟨_, _, rfl⟩⟩ <;> rfl

theorem getDescriptor_intEnable {v l : Half} (h : getDescriptor v l s = .next t) :
    t.intEnable = s.intEnable := by
  rcases getDescriptor_cases h with rfl | h
  · rfl
  · exact h.intEnable

theorem SendFails.intEnable (h : SendFails s t) : t.intEnable = s.intEnable := by
  rcases h with ⟨_, rfl⟩ | ⟨_, rfl⟩ <;> rfl

/-- A window opens: interrupts are off, and the position of `TRANSMIT` holds the old value. -/
def OpensWindow (key mod : Byte) (s t : State) : Prop :=
  t.intEnable = false ∧ ∃ n d, t.fg = .send key mod (.t2 n s.intEnable d)

/-- A window closes: `int_enable` is the value that the position of `TRANSMIT` held. -/
def ClosesWindow (key mod : Byte) (s t : State) : Prop :=
  ∃ n saved d, (s.fg = .send key mod (.t2 n saved d) ∨ s.fg = .send key mod (.t3 n saved d)) ∧
    t.intEnable = saved

/-- `TRANSMIT` opens its window at `t1` and `t6` and closes it at `t3`, or at `t2` once the report is
pushed; no other step of `SEND_KEYPRESS` writes `int_enable`. -/
theorem execSendKeypress_intEnable {key mod : Byte} (h : execSendKeypress key mod s = .next t) :
    t.intEnable = s.intEnable ∨ OpensWindow key mod s t ∨ ClosesWindow key mod s t := by
  rcases (execSendKeypress_cases h).2 with
    ⟨_, rfl⟩ | ⟨_, rfl⟩ | ⟨_, _, ht0⟩ | ⟨n, _, rfl⟩ | ⟨n, saved, d, hfg, ht2⟩ |
    ⟨n, saved, d, hfg, rfl⟩ | ⟨_, _, _, ht4⟩ | ⟨_, _, _, ht5⟩ | ⟨n, d, _, rfl⟩ | ⟨_, rfl⟩ | ⟨_, rfl⟩
  -- the call, and step 2 of R208
  · exact .inl rfl
  · exact .inl rfl
  -- t0 to t6 of R210
  · rcases ht0 with ⟨_, rfl⟩ | ⟨_, hfails⟩
    · exact .inl rfl
    · exact .inl hfails.intEnable
  · exact .inr (.inl ⟨rfl, n, s.transmitDeadline, rfl⟩)
  · rcases ht2 with ⟨_, rfl⟩ | ⟨_, _, _, _, rfl⟩
    · exact .inl rfl
    · exact .inr (.inr ⟨n, saved, d, .inl hfg, rfl⟩)
  · exact .inr (.inr ⟨n, saved, d, .inr hfg, rfl⟩)
  · rcases ht4 with ⟨_, rfl⟩ | ⟨_, hfails⟩
    · exact .inl rfl
    · exact .inl hfails.intEnable
  · rcases ht5 with ⟨_, rfl⟩ | ⟨_, hfails⟩
    · exact .inl rfl
    · exact .inl hfails.intEnable
  · exact .inr (.inl ⟨rfl, n, d, rfl⟩)
  -- steps 4 and 5 of R208
  · exact .inl rfl
  · exact .inl rfl

/-- No other operation has a window (R75). -/
theorem exec_intEnable {i : Instr} (hi : ∀ key mod, i ≠ .sendKeypress key mod)
    (h : exec i s = .next t) : t.intEnable = s.intEnable := by
  cases i <;> simp only [exec] at h
  case sendKeypress key mod => exact absurd rfl (hi key mod)
  case tick => rcases execTick_cases h with ⟨_, rfl⟩ | ⟨_, rfl⟩ <;> rfl
  case kpTake => rcases execKpTake_cases h with ⟨_, ⟨_, rfl⟩ | ⟨_, _, rfl⟩⟩ <;> rfl
  case giEorst => rcases execGiEorst_cases h with ⟨_, rfl⟩ | ⟨_, rfl⟩ <;> rfl
  case giSof =>
    rcases execGiSof_cases h with rfl | ⟨_, rfl | ⟨_, _, _, rfl⟩ | ⟨_, _, _, rfl⟩⟩ <;> rfl
  case epInt => rcases execEpInt_cases h with ⟨_, rfl⟩ | ⟨_, _, _, rfl⟩ <;> rfl
  case setAddress =>
    rcases execSetAddress_cases h with ⟨_, rfl⟩ | ⟨_, _, _, rfl | rfl⟩ <;> rfl
  case getDescriptorDevice => exact getDescriptor_intEnable h
  case getDescriptorInterface => exact getDescriptor_intEnable h
  case setConfiguration => rcases execSetConfiguration_cases h with ⟨_, rfl⟩ | ⟨_, rfl⟩ <;> rfl
  case setIdle => cases h; rfl
  case setProtocol => cases h; rfl
  case stall => cases h; rfl
  case usbSetup =>
    rcases (execUsbSetup_cases h).2 with
      ⟨_, _, rfl⟩ | ⟨_, rfl⟩ | ⟨_, _, rfl | ⟨_, rfl⟩ | rfl⟩ | ⟨_, rfl⟩ | ⟨_, rfl⟩ | ⟨_, rfl⟩ <;> rfl
  case hasConfigured => rw [(execHasConfigured_cases h).2]
  all_goals exact (controlIn_cases (Host.Outcome.next.inj h)).intEnable

/-- Settles O56: `SEND_KEYPRESS` opens and closes its windows, and no other operation moves
`int_enable`. -/
theorem onlyTheWindowMovesIntEnable : Obligations.OnlyTheWindowMovesIntEnable := by
  intro i s t h hchanged
  by_cases hi : ∃ key mod, i = .sendKeypress key mod
  · obtain ⟨key, mod, rfl⟩ := hi
    exact ⟨key, mod, rfl, (execSendKeypress_intEnable h).resolve_left hchanged⟩
  · exact absurd (exec_intEnable (fun key mod he => hi ⟨key, mod, he⟩) h) hchanged

/-! ### `TRANSMIT` -/

/-- The command in flight takes the step it stands at. -/
theorem execSendKeypress_at {key mod : Byte} {pos : SendPos} (hin : s.inHandler = false)
    (hfg : s.fg = .send key mod pos) :
    execSendKeypress key mod s = .next (sendStep key mod pos s) := by
  simp [execSendKeypress, hin, hfg]

theorem configured_of_ne_zero (h : s.configuration ≠ 0) : s.configured = true := bne_iff_ne.2 h

/-- On a configured device `t0` goes on to open the window. -/
theorem sendStep_t0_of_configured (key mod : Byte) (n : TxOrd) (h : s.configuration ≠ 0) :
    sendStep key mod (.t0 n) s = { s with fg := .send key mod (.t1 n) } :=
  if_pos (configured_of_ne_zero h)

/-- The window opens, with the deadline 50 frames on. -/
theorem sendStep_t1 (key mod : Byte) (n : TxOrd) (s : State) :
    sendStep key mod (.t1 n) s =
      { s with
        intEnable := false
        fg := .send key mod
          (.t2 n s.intEnable ((s.frameNum % 2 ^ s.cfg.frameW + 50) % 2 ^ s.cfg.frameW)) } := rfl

theorem sendStep_t2_of_not_ready (key mod : Byte) (n : TxOrd) (saved : Bool) (d : Nat)
    (h : s.kbRwal = false) :
    sendStep key mod (.t2 n saved d) s = { s with fg := .send key mod (.t3 n saved d) } := by
  simp [sendStep, State.kbReady, h, toSendStep]

/-- The window closes until the next poll. -/
theorem sendStep_t3 (key mod : Byte) (n : TxOrd) (saved : Bool) (d : Nat) (s : State) :
    sendStep key mod (.t3 n saved d) s =
      { s with intEnable := saved, sendPhase := .txPoll n d, fg := .send key mod (.t4 n d) } := rfl

theorem sendStep_t4_of_configured (key mod : Byte) (n : TxOrd) (d : Nat)
    (h : s.configuration ≠ 0) :
    sendStep key mod (.t4 n d) s = { s with fg := .send key mod (.t5 n d) } :=
  if_pos (configured_of_ne_zero h)

theorem sendStep_t5_of_not_deadline (key mod : Byte) (n : TxOrd) {d : Nat}
    (h : s.frameNum % 2 ^ s.cfg.frameW ≠ d) :
    sendStep key mod (.t5 n d) s = { s with fg := .send key mod (.t6 n d) } := by
  simp [sendStep, State.frame, h, toSendStep]

/-- The window opens again for the next poll, with the same deadline. -/
theorem sendStep_t6 (key mod : Byte) (n : TxOrd) (d : Nat) (s : State) :
    sendStep key mod (.t6 n d) s =
      { s with intEnable := false, fg := .send key mod (.t2 n s.intEnable d) } := rfl

/-- Settles O41, position by position. -/
theorem transmitPollsInsideItsWindow : Obligations.TransmitPollsInsideItsWindow := by
  intro key mod n s hin
  have run {pos : SendPos} {t : State} (hfg : s.fg = .send key mod pos)
      (ht : sendStep key mod pos s = t) : exec (.sendKeypress key mod) s = .next t :=
    ht ▸ execSendKeypress_at hin hfg
  exact ⟨
    fun hfg hconf => run hfg (sendStep_t0_of_configured key mod n hconf),
    fun hfg => run hfg (sendStep_t1 key mod n s),
    fun saved d hfg hready => run hfg (sendStep_t2_of_not_ready key mod n saved d hready),
    fun saved d hfg => run hfg (sendStep_t3 key mod n saved d s),
    fun d hfg hconf => run hfg (sendStep_t4_of_configured key mod n d hconf),
    fun _ hfg hframe => run hfg (sendStep_t5_of_not_deadline key mod n hframe),
    fun d hfg => run hfg (sendStep_t6 key mod n d s)⟩

/-! ### Who is shut out -/

theorem startHandler_of_not_mayStart {hd : Handler} (h : s.mayStart hd = false) :
    startHandler hd s = .next s := by
  simp [startHandler, h]

/-- While a handler runs no other starts (R248). -/
theorem mayStart_of_inHandler (hd : Handler) (h : s.inHandler = true) : s.mayStart hd = false := by
  simp [State.mayStart, h]

/-- While interrupts are off no handler starts (R75, R290). -/
theorem mayStart_of_disabled (hd : Handler) (h : s.intEnable = false) : s.mayStart hd = false := by
  simp [State.mayStart, h]

theorem advanceForeground_of_inHandler (h : s.inHandler = true) :
    advanceForeground s = .next s := by
  simp [advanceForeground, h]

theorem issueCommand_of_inHandler (c : Command) (h : s.inHandler = true) :
    issueCommand c s = .next s := by
  simp [issueCommand, h]

/-- Settles O11: each of the three moves finds `in_handler = 1` and is only used up. -/
theorem runningHandlerShutsOthersOut : Obligations.RunningHandlerShutsOthersOut := by
  intro s rest hin
  refine ⟨fun hd hsched => ?_, fun hsched => ?_, fun c hsched => ?_⟩ <;> rw [step_of_sched hsched]
  · exact startHandler_of_not_mayStart (mayStart_of_inHandler hd hin)
  · exact advanceForeground_of_inHandler hin
  · exact issueCommand_of_inHandler c hin

/-- Settles O12: the handler may not start, and the schedule is no part of what pends it. -/
theorem disabledInterruptsHoldHandlersBack : Obligations.DisabledInterruptsHoldHandlersBack := by
  intro s hd rest hoff hsched
  constructor
  · rw [step_of_sched hsched]
    exact startHandler_of_not_mayStart (mayStart_of_disabled hd hoff)
  · cases hd <;> rfl

end Sys2Proof.Machine
end

section
/-! SUPPORT. `GET_DESCRIPTOR` from no hold (R171, R175). -/

namespace Sys2Proof.Machine

variable {s : State}

theorem getDescriptor_of_idle (v l : Half) (h : s.ctlPhase = .idle) :
    getDescriptor v l s = descriptorStart v l s := by
  simp [getDescriptor, h]

/-- A key of the table: the data stage over the whole entry, cut to `wLength`, begins. -/
theorem descriptorStart_of_entry {v : Half} {data : List Byte} (l : Half)
    (hentry : s.cfg.descTable.entry v = some data) :
    descriptorStart v l s = .next { s with ctlPhase := stageStart data l } := by
  rw [descriptorStart_eq, hentry]

/-- A key that is not in the table: EP0 stalls. -/
theorem descriptorStart_of_absent {v : Half} (l : Half) (hidle : s.ctlPhase = .idle)
    (hentry : s.cfg.descTable.entry v = none) :
    descriptorStart v l s = .next { s with ep0Stall := true } := by
  rw [descriptorStart_eq, hentry, hidle]

/-- Settles O30: both recipients run one meaning, which looks the key up. -/
theorem getDescriptorStreamsTheEntryOrStalls :
    Obligations.GetDescriptorStreamsTheEntryOrStalls := by
  intro v ix l s hidle
  have hstart := getDescriptor_of_idle v l hidle
  refine ⟨fun data hentry => ?_, fun hentry => ?_⟩
  · have hstream := hstart.trans (descriptorStart_of_entry l hentry)
    exact ⟨hstream, hstream⟩
  · have hstall := hstart.trans (descriptorStart_of_absent l hidle hentry)
    exact ⟨hstall, hstall⟩

end Sys2Proof.Machine
end

section
/-! SUPPORT. The dispatch table row by row (R103, R104): what a row compares, in fields of the SETUP
word, and the request it selects; `decodeSetup` is the look-up in that table, and `encode` gives its
words back. -/

namespace Sys2Proof

/-! ### Words and their fields -/

/-- A word is known by its five fields (R96). -/
theorem Setup64.eq_ofFields_iff {w : Setup64} {a b : Byte} {v i l : Half} :
    w = Setup64.ofFields a b v i l ↔
      Setup64.bmRequestType w = a ∧ Setup64.bRequest w = b ∧ Setup64.wValue w = v ∧
        Setup64.wIndex w = i ∧ Setup64.wLength w = l := by
  constructor
  · rintro rfl
    simp
  · rintro ⟨rfl, rfl, rfl, rfl, rfl⟩
    simp

/-- Masking a word masks each of its fields. -/
theorem Setup64.and_ofFields (w : Setup64) (a b : Byte) (v i l : Half) :
    w &&& Setup64.ofFields a b v i l =
      Setup64.ofFields (Setup64.bmRequestType w &&& a) (Setup64.bRequest w &&& b)
        (Setup64.wValue w &&& v) (Setup64.wIndex w &&& i) (Setup64.wLength w &&& l) := by
  obtain ⟨hbm, hbR, hv, hi, hl⟩ := Setup64.fields_ofFields a b v i l
  refine Setup64.eq_ofFields_iff.2 ⟨?_, ?_, ?_, ?_, ?_⟩
  · exact BitVec.extractLsb'_and.trans (congrArg _ hbm)
  · exact BitVec.extractLsb'_and.trans (congrArg _ hbR)
  · exact BitVec.extractLsb'_and.trans (congrArg _ hv)
  · exact BitVec.extractLsb'_and.trans (congrArg _ hi)
  · exact BitVec.extractLsb'_and.trans (congrArg _ hl)

/-! ### The table in fields -/

/-- A row of the dispatch table in fields: the two code bytes, whether `wIndex` is compared with
`KEYBOARD_INTERFACE` too, and the request by its operands (R104). -/
structure DispatchRow where
  bmRequestType : Byte
  bRequest : Byte
  keyboard : Bool
  request : (wValue wIndex wLength : Half) → Instr

/-- The eleven rows, in the order of the table (R104). -/
def dispatchRows : List DispatchRow :=
  [⟨0x80, 0x00, false, .getStatus⟩, ⟨0x00, 0x05, false, .setAddress⟩,
   ⟨0x80, 0x06, false, .getDescriptorDevice⟩, ⟨0x81, 0x06, false, .getDescriptorInterface⟩,
   ⟨0x80, 0x08, false, .getConfiguration⟩, ⟨0x00, 0x09, false, .setConfiguration⟩,
   ⟨0xA1, 0x01, true, fun v _ l => .getReport v l⟩, ⟨0xA1, 0x02, true, fun v _ l => .getIdle v l⟩,
   ⟨0xA1, 0x03, true, fun v _ l => .getProtocol v l⟩, ⟨0x21, 0x0A, true, fun v _ l => .setIdle v l⟩,
   ⟨0x21, 0x0B, true, fun v _ l => .setProtocol v l⟩]

namespace DispatchRow

/-- The fields of the word are those the row compares with. -/
def selects (r : DispatchRow) (kbIf : Half) (w : Setup64) : Bool :=
  Setup64.bmRequestType w == r.bmRequestType && Setup64.bRequest w == r.bRequest &&
    (!r.keyboard || Setup64.wIndex w == kbIf)

/-- The row as a mask and a pattern (R103). -/
def toSetupRow (r : DispatchRow) (kbIf : Half) : SetupRow :=
  if r.keyboard then
    ⟨Setup64.ofFields 0xFF 0xFF 0 0xFFFF 0, Setup64.ofFields r.bmRequestType r.bRequest 0 kbIf 0⟩
  else ⟨Setup64.ofFields 0xFF 0xFF 0 0 0, Setup64.ofFields r.bmRequestType r.bRequest 0 0 0⟩

variable {r r' : DispatchRow} {kbIf : Half} {w : Setup64}

theorem selects_iff :
    r.selects kbIf w = true ↔
      Setup64.bmRequestType w = r.bmRequestType ∧ Setup64.bRequest w = r.bRequest ∧
        (r.keyboard = true → Setup64.wIndex w = kbIf) := by
  cases h : r.keyboard <;> simp [selects, h, and_assoc]

/-- `(W & mask) == match` is the comparison of the fields. -/
theorem hits_iff_selects :
    w &&& (r.toSetupRow kbIf).mask = (r.toSetupRow kbIf).pattern ↔ r.selects kbIf w = true := by
  have hbyte (b : Byte) : b &&& 255#8 = b := BitVec.and_allOnes
  have hhalf (i : Half) : i &&& 65535#16 = i := BitVec.and_allOnes
  rw [selects_iff]
  cases h : r.keyboard <;>
    simp [toSetupRow, h, Setup64.and_ofFields, Setup64.eq_ofFields_iff, hbyte, hhalf]

/-- The rows of the model's table are these. -/
theorem setupRows_eq (kbIf : Half) : setupRows kbIf = dispatchRows.map (·.toSetupRow kbIf) := by
  have hkb (a b : Byte) : Setup64.ofFields a b 0 kbIf 0 =
      Setup64.ofFields a b 0 0 0 ||| (kbIf.setWidth 64 <<< 32) := by
    simp [Setup64.ofFields, BitVec.or_comm, BitVec.or_assoc]
  simp only [setupRows, dispatchRows, List.map_cons, List.map_nil, toSetupRow, hkb, if_true]
  rfl

/-- No two rows have the same code bytes. -/
theorem codes_nodup : (dispatchRows.map fun r => (r.bmRequestType, r.bRequest)).Nodup := by decide

/-- So a word selects at most one row. -/
theorem eq_of_selects (hr : r ∈ dispatchRows) (hr' : r' ∈ dispatchRows)
    (h : r.selects kbIf w = true) (h' : r'.selects kbIf w = true) : r = r' := by
  obtain ⟨hbm, hbR, _⟩ := selects_iff.1 h
  obtain ⟨hbm', hbR', _⟩ := selects_iff.1 h'
  exact List.inj_on_of_nodup_map codes_nodup hr hr'
    (Prod.ext (hbm.symm.trans hbm') (hbR.symm.trans hbR'))

end DispatchRow

/-! ### Decoding -/

/-- The request a word selects in a table: that of the first row that matches, or `STALL`. -/
def lookUp (kbIf : Half) (w : Setup64) (rows : List DispatchRow) : Instr :=
  match rows.find? (·.selects kbIf w) with
  | some r => r.request (Setup64.wValue w) (Setup64.wIndex w) (Setup64.wLength w)
  | none => .stall w

section

variable {r : DispatchRow} {rows : List DispatchRow} {kbIf : Half} {w : Setup64}

theorem lookUp_cons :
    lookUp kbIf w (r :: rows) =
      if r.selects kbIf w then
        r.request (Setup64.wValue w) (Setup64.wIndex w) (Setup64.wLength w)
      else lookUp kbIf w rows := by
  cases h : r.selects kbIf w <;> simp [lookUp, h]

theorem ite_eq_lookUp_cons {P : Prop} {_ : Decidable P} {i j : Instr}
    (hP : P ↔ r.selects kbIf w = true)
    (hi : i = r.request (Setup64.wValue w) (Setup64.wIndex w) (Setup64.wLength w))
    (hj : j = lookUp kbIf w rows) : (if P then i else j) = lookUp kbIf w (r :: rows) := by
  rw [lookUp_cons, hi, hj]
  exact if_congr hP rfl rfl

/-- `decodeSetup` is the look-up in the dispatch table (R103). -/
theorem decodeSetup_eq_lookUp (kbIf : Half) (w : Setup64) :
    decodeSetup kbIf w = lookUp kbIf w dispatchRows := by
  unfold decodeSetup dispatchRows
  dsimp only
  iterate 11
    refine ite_eq_lookUp_cons ?_ rfl ?_
    · simp [DispatchRow.selects_iff]
  rfl

/-- A word selects a row of the table, or none, and is then `STALL` (R105). -/
theorem decodeSetup_cases (kbIf : Half) (w : Setup64) :
    (∃ r ∈ dispatchRows, r.selects kbIf w = true ∧
      decodeSetup kbIf w =
        r.request (Setup64.wValue w) (Setup64.wIndex w) (Setup64.wLength w)) ∨
    ((∀ r ∈ dispatchRows, r.selects kbIf w ≠ true) ∧ decodeSetup kbIf w = .stall w) := by
  rw [decodeSetup_eq_lookUp, lookUp]
  cases hfind : dispatchRows.find? (·.selects kbIf w) with
  | some r =>
    exact .inl ⟨r, List.mem_of_find?_eq_some hfind,
      List.find?_some (p := fun r : DispatchRow => r.selects kbIf w) hfind, rfl⟩
  | none => exact .inr ⟨List.find?_eq_none.1 hfind, rfl⟩

/-- The row that a word matches gives its request. -/
theorem decodeSetup_of_selects (hr : r ∈ dispatchRows) (h : r.selects kbIf w = true) :
    decodeSetup kbIf w =
      r.request (Setup64.wValue w) (Setup64.wIndex w) (Setup64.wLength w) := by
  rcases decodeSetup_cases kbIf w with ⟨r', hr', h', hdecode⟩ | ⟨hnone, _⟩
  · rw [hdecode, DispatchRow.eq_of_selects hr hr' h h']
  · exact absurd h (hnone r hr)

theorem decodeSetup_of_no_row (h : ∀ r ∈ dispatchRows, r.selects kbIf w ≠ true) :
    decodeSetup kbIf w = .stall w := by
  rcases decodeSetup_cases kbIf w with ⟨r, hr, hs, _⟩ | ⟨_, hdecode⟩
  · exact absurd hs (h r hr)
  · exact hdecode

/-- A word of the default row is one that no row of the table matches. -/
theorem unsupportedWord_iff :
    unsupportedWord kbIf w = true ↔ ∀ r ∈ dispatchRows, r.selects kbIf w ≠ true := by
  simp only [unsupportedWord, DispatchRow.setupRows_eq, List.all_map, List.all_eq_true,
    Function.comp_apply, SetupRow.hits, Bool.not_eq_true', beq_eq_false_iff_ne, ne_eq,
    DispatchRow.hits_iff_selects]

end

/-! ### Encoding -/

section

open Machine

variable {n : Nat} {r : DispatchRow} {kbIf v i l : Half} {w : Setup64} {f : Format}

/-- The `wIndex` of a row's word: `KEYBOARD_INTERFACE` where the row compares it. -/
def DispatchRow.index (r : DispatchRow) (kbIf i : Half) : Half := if r.keyboard then kbIf else i

/-- The word of a request has the row's code bytes and the operands (R96, R104). -/
theorem encode_request (hr : r ∈ dispatchRows) :
    encode kbIf (r.request v i l) =
      some (.s, Setup64.ofFields r.bmRequestType r.bRequest v (r.index kbIf i) l) := by
  have h : dispatchRows.map (fun r => encode kbIf (r.request v i l)) =
      dispatchRows.map fun r =>
        some (.s, Setup64.ofFields r.bmRequestType r.bRequest v (r.index kbIf i) l) := rfl
  exact List.map_inj_left.1 h r hr

/-- Every operand of a request is legal (R106). -/
theorem wf_request (hr : r ∈ dispatchRows) : (r.request v i l).wf kbIf = true := by
  have h : dispatchRows.map (fun r => (r.request v i l).wf kbIf) =
      dispatchRows.map fun _ => true := rfl
  exact List.map_inj_left.1 h r hr

/-- The requests that compare `wIndex` do not carry it as an operand (R104). -/
theorem request_index (hr : r ∈ dispatchRows) :
    r.request v (r.index kbIf i) l = r.request v i l := by
  have h : dispatchRows.map (fun r => r.request v (r.index kbIf i) l) =
      dispatchRows.map fun r => r.request v i l := rfl
  exact List.map_inj_left.1 h r hr

/-- The request of row `n` stands in row `n`. -/
theorem setupRowOf_request (hr : dispatchRows[n]? = some r) :
    setupRowOf (r.request v i l) = some n := by
  have h : dispatchRows.map (fun r => setupRowOf (r.request v i l)) =
      (List.range dispatchRows.length).map some := rfl
  obtain ⟨hlt, rfl⟩ := List.getElem?_eq_some_iff.1 hr
  simpa [hlt] using congrArg (·[n]?) h

/-- The word of a request is served as that request. -/
theorem decodeSetup_ofFields (hr : r ∈ dispatchRows) :
    decodeSetup kbIf (Setup64.ofFields r.bmRequestType r.bRequest v (r.index kbIf i) l) =
      r.request v i l := by
  have hs : r.selects kbIf
      (Setup64.ofFields r.bmRequestType r.bRequest v (r.index kbIf i) l) = true := by
    simp +contextual [DispatchRow.selects_iff, DispatchRow.index]
  rw [decodeSetup_of_selects hr hs]
  simp [request_index hr]

/-- The word that a row matches has the row's code bytes and index. -/
theorem eq_ofFields_of_selects (h : r.selects kbIf w = true) :
    w = Setup64.ofFields r.bmRequestType r.bRequest (Setup64.wValue w)
      (r.index kbIf (Setup64.wIndex w)) (Setup64.wLength w) := by
  obtain ⟨hbm, hbR, hindex⟩ := DispatchRow.selects_iff.1 h
  refine Setup64.eq_ofFields_iff.2 ⟨hbm, hbR, rfl, ?_, rfl⟩
  unfold DispatchRow.index
  split
  · exact hindex ‹_›
  · rfl

/-! ### The obligations -/

/-- Every word is a word of format S. -/
theorem decode_s (kbIf : Half) (w : Setup64) : decode kbIf .s w = .ok [decodeSetup kbIf w] :=
  if_pos (BitVec.isLt w)

/-- A request is decoded from its word, with every operand at every value. -/
theorem decode_encode_request (n : Nat) (hn : dispatchRows[n]? = some r)
    (h : encode kbIf (r.request v i l) = some (f, w)) :
    decode kbIf f w = .ok [r.request v i l] := by
  have hr := List.mem_of_getElem? hn
  rw [encode_request hr] at h
  cases h
  rw [decode_s, decodeSetup_ofFields hr]

/-- A switch sample is read back from its word (R91). -/
theorem decode_k_setWidth (kbIf : Half) (sw : BitVec 3) :
    decode kbIf .k (sw.setWidth 64) = .ok [.tick sw] := by
  have hfits := Laws.EncodingFits.tick sw kbIf _ _ rfl
  simp only [decode, hfits, if_true]
  simp

/-- Settles O1, operation by operation; a request is found in its row, and a well-formed `STALL` in
none. -/
theorem decodeOfEncodeIsTheOperation : Obligations.DecodeOfEncodeIsTheOperation := by
  intro kbIf i f w hwf h
  cases i with
  | tick sw => cases h; exact decode_k_setWidth kbIf sw
  | giEorst => cases h; rfl
  | giSof => cases h; rfl
  | epInt rxstp => cases h; cases rxstp <;> rfl
  | getStatus v ix l => exact decode_encode_request 0 rfl h
  | setAddress v ix l => exact decode_encode_request 1 rfl h
  | getDescriptorDevice v ix l => exact decode_encode_request 2 rfl h
  | getDescriptorInterface v ix l => exact decode_encode_request 3 rfl h
  | getConfiguration v ix l => exact decode_encode_request 4 rfl h
  | setConfiguration v ix l => exact decode_encode_request 5 rfl h
  | getReport v l => exact decode_encode_request (i := kbIf) 6 rfl h
  | getIdle v l => exact decode_encode_request (i := kbIf) 7 rfl h
  | getProtocol v l => exact decode_encode_request (i := kbIf) 8 rfl h
  | setIdle v l => exact decode_encode_request (i := kbIf) 9 rfl h
  | setProtocol v l => exact decode_encode_request (i := kbIf) 10 rfl h
  | stall w' =>
    cases h
    rw [decode_s, decodeSetup_of_no_row (unsupportedWord_iff.1 hwf)]
  | kpTake => cases h
  | usbSetup => cases h
  | sendKeypress key mod => cases h
  | hasConfigured => cases h

/-- Settles O2: the word is that of the row it selects, or of the default row. -/
theorem encodeOfDecodedSetupIsTheWord : Obligations.EncodeOfDecodedSetupIsTheWord := by
  intro kbIf w
  rcases decodeSetup_cases kbIf w with ⟨r, hr, hs, hdecode⟩ | ⟨hnone, hdecode⟩ <;> rw [hdecode]
  · exact ⟨by rw [encode_request hr, ← eq_ofFields_of_selects hs], wf_request hr⟩
  · exact ⟨rfl, unsupportedWord_iff.2 hnone⟩

/-- A request stands in the row its word matches, and in no other. -/
theorem setupRowOf_decodeSetup_iff (hn : dispatchRows[n]? = some r) :
    setupRowOf (decodeSetup kbIf w) = some n ↔ r.selects kbIf w = true := by
  constructor
  · rcases decodeSetup_cases kbIf w with ⟨r', hr', hs, hdecode⟩ | ⟨_, hdecode⟩ <;> rw [hdecode]
    · obtain ⟨n', hn'⟩ := List.getElem?_of_mem hr'
      rw [setupRowOf_request hn', Option.some_inj]
      rintro rfl
      rwa [← Option.some_inj.1 (hn'.symm.trans hn)]
    · exact nofun
  · intro hs
    rw [decodeSetup_of_selects (List.mem_of_getElem? hn) hs, setupRowOf_request hn]

/-- Masking and comparing with row `n` finds the row of the decoded request (R103). -/
theorem hits_iff_setupRowOf {row : SetupRow} (hrow : (setupRows kbIf)[n]? = some row) :
    w &&& row.mask = row.pattern ↔ setupRowOf (decodeSetup kbIf w) = some n := by
  rw [DispatchRow.setupRows_eq, List.getElem?_map] at hrow
  obtain ⟨r, hn, rfl⟩ := Option.map_eq_some_iff.1 hrow
  rw [DispatchRow.hits_iff_selects, setupRowOf_decodeSetup_iff hn]

/-- Settles O3: the decoded request stands in the row that matches, and no row matches where it is
`STALL`. -/
theorem dispatchFollowsMaskAndMatch : Obligations.DispatchFollowsMaskAndMatch := by
  intro kbIf w
  refine ⟨fun n row hrow => hits_iff_setupRowOf hrow, ?_⟩
  simp only [DispatchRow.setupRows_eq, List.forall_mem_map, ne_eq, DispatchRow.hits_iff_selects]
  constructor
  · exact decodeSetup_of_no_row
  · intro hstall r hr hs
    obtain ⟨n, hn⟩ := List.getElem?_of_mem hr
    have hrow := (setupRowOf_decodeSetup_iff hn).2 hs
    rw [hstall] at hrow
    cases hrow

/-- Settles O4: a row that matches is the row of the decoded request. -/
theorem dispatchRowsAreExclusive : Obligations.DispatchRowsAreExclusive := by
  intro kbIf w m n row row' hm hn hmatch hmatch'
  have hrow := (hits_iff_setupRowOf hm).1 hmatch
  have hrow' := (hits_iff_setupRowOf hn).1 hmatch'
  exact Option.some_inj.1 (hrow.symm.trans hrow')

/-- `{hi, lo}` is the concatenation of bit vectors (R9). -/
theorem concatBytes_eq_append (hi lo : Byte) : concatBytes hi lo = hi ++ lo := by
  refine BitVec.eq_of_getLsbD_eq fun k hk => ?_
  rw [BitVec.getLsbD_append]
  by_cases h : k < 8
  · simp [concatBytes, h, show k < 16 from hk]
  · simp [concatBytes, h, show k < 16 from hk, BitVec.getLsbD_of_ge lo k (by omega)]

/-- Settles O5: operand assembly is concatenation; the word and its packet determine each other. -/
theorem setupBytesAreTheFields : Obligations.SetupBytesAreTheFields :=
  ⟨fun b0 b1 b2 b3 b4 b5 b6 b7 => by simp only [SetupPkt.ofBytes, concatBytes_eq_append],
    fun w => ⟨rfl, SetupPkt.ofBytes_bytes w, SetupPkt.word_ofWord w⟩⟩

/-- Settles O6: each word is decoded by evaluation. -/
theorem knownWordsDecode : Obligations.KnownWordsDecode :=
  ⟨rfl, rfl, rfl, rfl, rfl, rfl, rfl, rfl, rfl, rfl⟩

end

end Sys2Proof
end

section
/-! SUPPORT. The steps of the foreground (R101, R205), of `EP_INT` and `STALL` (R154, R157), and an
undisturbed `SEND_KEYPRESS` from its call to its end (R208, R210, R213). -/

namespace Sys2Proof.Machine

variable {s : State}

/-! ### A foreground step runs its command -/

/-- A called command runs while no other is in flight. -/
theorem issueCommand_of_idle (c : Command) (hin : s.inHandler = false) (hfg : s.fg = .idle) :
    issueCommand c s = exec c.toInstr s := by
  simp [issueCommand, hin, hfg]

/-- The command in flight goes on. -/
theorem advanceForeground_of_command {c : Command} (hin : s.inHandler = false)
    (hfg : s.fg.command = some c) : advanceForeground s = exec c.toInstr s := by
  simp [advanceForeground, hin, hfg]

/-- Settles O9: both moves end in the command's meaning. -/
theorem foregroundStepRunsItsCommand : Obligations.ForegroundStepRunsItsCommand := by
  intro s rest
  refine ⟨fun c hin hfg hsched => ?_, fun c hin hfg hsched => ?_⟩ <;> rw [step_of_sched hsched]
  · exact issueCommand_of_idle c hin hfg
  · exact advanceForeground_of_command hin hfg

/-! ### The endpoint interrupt -/

/-- Settles O26: the branch without a packet is a protocol stall. -/
theorem spuriousInterruptStalls : Obligations.SpuriousInterruptStalls := fun _ => rfl

/-- Settles O28: the default row is a protocol stall. -/
theorem unsupportedRequestStalls : Obligations.UnsupportedRequestStalls := fun _ _ => rfl

/-- Settles O27: the eight reads assemble the packet, and the acknowledge clears the rest. -/
theorem epIntParsesTheSetupPacket : Obligations.EpIntParsesTheSetupPacket := by
  intro s b0 b1 b2 b3 b4 b5 b6 b7 hrx
  have hread : readSetup { s with pendEp := false } =
      { s with
        pendEp := false, setupPkt := .ofBytes b0 b1 b2 b3 b4 b5 b6 b7, ep0Rx := [] } :=
    readSetup_of_bytes _ hrx
  simp only [exec, execEpInt, hread, if_true]
  rfl

/-! ### A ready endpoint takes the report -/

/-- At `t2` a ready endpoint takes the report, and the window closes (R153, R210). -/
theorem sendStep_t2_of_ready (key mod : Byte) (n : TxOrd) (saved : Bool) (d : Nat)
    (h : s.kbRwal = true) :
    sendStep key mod (.t2 n saved d) s =
      transmitSucceeds key mod n
        { s with
          kbRwal := false
          kbTx := []
          kbBanks := s.kbFilled (s.kbTx ++ buildReport s)
          txLog := s.txLog ++ [⟨s.cfg.kbEp, s.kbTx ++ buildReport s⟩]
          idleCount := 0
          intEnable := saved
          sendPhase := .none } := by
  simp only [sendStep, State.kbReady, h, if_true, pushReport_eq]
  rfl

/-- Settles O42: the two transmits differ in where the command goes on. -/
theorem transmitPushesWhenReady : Obligations.TransmitPushesWhenReady := by
  intro key mod saved d s hin hready
  have run (n : TxOrd) (hfg : s.fg = .send key mod (.t2 n saved d)) :=
    (execSendKeypress_at hin hfg).trans
      (congrArg Host.Outcome.next (sendStep_t2_of_ready key mod n saved d hready))
  exact ⟨run .first, run .second⟩

/-- With a bank free and no byte left uncommitted, the report stands behind the packets there. -/
theorem sendStep_t2_of_room (key mod : Byte) (n : TxOrd) (saved : Bool) (d : Nat)
    (hready : s.kbRwal = true) (htx : s.kbTx = []) (hroom : s.kbBanks.length < s.cfg.kbEpBanks) :
    sendStep key mod (.t2 n saved d) s =
      transmitSucceeds key mod n
        { s with
          kbRwal := false
          kbBanks := s.kbBanks ++ [buildReport s]
          txLog := s.txLog ++ [⟨s.cfg.kbEp, buildReport s⟩]
          idleCount := 0
          intEnable := saved
          sendPhase := .none } := by
  have hfill : s.kbFilled (buildReport s) = s.kbBanks ++ [buildReport s] := fillBank_of_room hroom
  rw [sendStep_t2_of_ready key mod n saved d hready]
  simp only [htx, List.nil_append, hfill]

/-! ### Runs -/

/-- A scheduled move that answers a state, and the run from there. -/
theorem stepN_succ_of_sched {c : Choice} {rest : List Choice} {t : State} (n : Nat)
    (hsched : s.sched = c :: rest) (ht : stepChoice c { s with sched := rest } = .next t) :
    stepN (n + 1) s = stepN n t := by
  rw [stepN, step_of_sched hsched, ht, andThen_next]

/-- A scheduled step of the `SEND_KEYPRESS` in flight, and the run from there. -/
theorem stepN_succ_of_send {key mod : Byte} {pos : SendPos} {rest : List Choice} {t : State}
    (n : Nat) (hin : s.inHandler = false) (hfg : s.fg = .send key mod pos)
    (hsched : s.sched = .fg :: rest) (ht : sendStep key mod pos { s with sched := rest } = t) :
    stepN (n + 1) s = stepN n t := by
  refine stepN_succ_of_sched n hsched ?_
  have hcommand : s.fg.command = some (.sendKeypress key mod) := congrArg FgPos.command hfg
  rw [← ht]
  exact (advanceForeground_of_command (s := { s with sched := rest }) hin hcommand).trans
    (execSendKeypress_at hin hfg)

/-- A collect takes the oldest packet, if there is one, and the ready flag then reads 1 (R48). -/
theorem collectPacket_kb_eq (s : State) :
    collectPacket .kb s =
      { s with
        kbBanks := s.kbBanks.tail
        kbRwal := s.kbRwal || !s.kbBanks.isEmpty } := by
  cases h : s.kbBanks with
  | nil =>
    rw [collectPacket_kb_nil s h, List.tail_nil, List.isEmpty_nil, Bool.not_true, Bool.or_false,
      ← h]
  | cons p rest => simp [collectPacket_kb_cons s h]

/-- The host collects a packet, if there is one, and the endpoint is ready. -/
theorem stepN_collect_ready {rest : List Choice} (m : Nat)
    (hsched : s.sched = .env (.collect .kb) :: .env (.kbRwal true) :: rest) :
    stepN (m + 2) s =
      stepN m { s with sched := rest, kbBanks := s.kbBanks.tail, kbRwal := true } := by
  rw [stepN_succ_of_sched (m + 1) hsched rfl, applyEnv, collectPacket_kb_eq,
    stepN_succ_of_sched m rfl rfl]
  rfl

/-- The moves of an undisturbed `TRANSMIT`: `t0`, `t1`, the host collects a packet, the endpoint is
ready, `t2`. -/
def quietTransmit (rest : List Choice) : List Choice :=
  .fg :: .fg :: .env (.collect .kb) :: .env (.kbRwal true) :: .fg :: rest

/-- A packet stands in the log and, behind what the host left there, in a bank of the endpoint: what
an undisturbed `TRANSMIT` leaves, but for the foreground. -/
def transmitted (report : List Byte) (s : State) : State :=
  { s with
    idleCount := 0
    sendPhase := .none
    kbRwal := false
    kbBanks := s.kbBanks.tail ++ [report]
    txLog := s.txLog ++ [⟨s.cfg.kbEp, report⟩] }

/-- What an undisturbed `TRANSMIT` starts from: a configured device, no byte left uncommitted, and
no more packets in the banks of the endpoint than it has. -/
structure TransmitReady (s : State) : Prop where
  inHandler : s.inHandler = false
  configured : s.configuration ≠ 0
  kbTx : s.kbTx = []
  banks : 1 ≤ s.cfg.kbEpBanks
  room : s.kbBanks.length ≤ s.cfg.kbEpBanks

/-- Once the host has collected a packet there is a free bank. -/
theorem TransmitReady.bank_free (h : TransmitReady s) :
    s.kbBanks.tail.length < s.cfg.kbEpBanks := by
  have := h.banks
  have := h.room
  rw [List.length_tail]
  omega

theorem TransmitReady.transmitted (h : TransmitReady s) (report : List Byte) :
    TransmitReady (transmitted report s) :=
  { h with
    room := by
      show (s.kbBanks.tail ++ [report]).length ≤ s.cfg.kbEpBanks
      have := h.bank_free
      simpa using this }

/-- An undisturbed `TRANSMIT`: past `t0` and `t1`, the host collects a packet and the endpoint is
ready, and `t2` commits the report (R210). -/
theorem stepN_quietTransmit {key mod : Byte} {n : TxOrd} {rest : List Choice} (m : Nat)
    (h : TransmitReady s) (hfg : s.fg = .send key mod (.t0 n))
    (hsched : s.sched = quietTransmit rest) :
    stepN (m + 5) s =
      stepN m (transmitSucceeds key mod n
        { transmitted (buildReport s) s with sched := rest }) := by
  calc stepN (m + 5) s
      = stepN (m + 4)
          { s with
            sched := .fg :: .env (.collect .kb) :: .env (.kbRwal true) :: .fg :: rest
            fg := .send key mod (.t1 n) } :=
        stepN_succ_of_send _ h.inHandler hfg hsched
          (sendStep_t0_of_configured key mod n h.configured)
    _ = stepN (m + 3)
          { s with
            sched := .env (.collect .kb) :: .env (.kbRwal true) :: .fg :: rest
            intEnable := false
            fg := .send key mod (.t2 n s.intEnable s.transmitDeadline) } :=
        stepN_succ_of_send _ h.inHandler rfl rfl (sendStep_t1 key mod n _)
    _ = stepN (m + 1)
          { s with
            sched := .fg :: rest
            intEnable := false
            kbBanks := s.kbBanks.tail
            kbRwal := true
            fg := .send key mod (.t2 n s.intEnable s.transmitDeadline) } :=
        stepN_collect_ready (m + 1) rfl
    _ = stepN m (transmitSucceeds key mod n
          { transmitted (buildReport s) s with sched := rest }) := by
        refine stepN_succ_of_send m h.inHandler rfl rfl
          ((sendStep_t2_of_room key mod n _ _ ?_ ?_ ?_).trans ?_)
        · rfl
        · exact h.kbTx
        · exact h.bank_free
        · cases n <;> rfl

/-! ### The whole command -/

/-- The call writes the modifiers (R208 step 1). -/
theorem execSendKeypress_of_idle (key mod : Byte) (hin : s.inHandler = false) (hfg : s.fg = .idle) :
    execSendKeypress key mod s =
      .next { s with modifierKeys := mod, fg := .send key mod .step2 } := by
  simp [execSendKeypress, hin, hfg, toSendStep]

/-- A scheduled call, and the run from there. -/
theorem stepN_succ_of_call {key mod : Byte} {rest : List Choice} (n : Nat)
    (hin : s.inHandler = false) (hfg : s.fg = .idle)
    (hsched : s.sched = .issue (.sendKeypress key mod) :: rest) :
    stepN (n + 1) s =
      stepN n { s with sched := rest, modifierKeys := mod, fg := .send key mod .step2 } :=
  stepN_succ_of_sched n hsched
    ((issueCommand_of_idle (s := { s with sched := rest }) _ hin hfg).trans
      (execSendKeypress_of_idle key mod hin hfg))

/-- The report fields as `SEND_KEYPRESS` writes them, in two steps (R208). -/
def fieldsWritten (mod key : Byte) (s : State) : State :=
  { s with modifierKeys := mod, keyboardKeys := s.keyboardKeys.set 0 key }

theorem TransmitReady.fieldsWritten (h : TransmitReady s) (mod key : Byte) (sched : List Choice)
    (fg : FgPos) :
    TransmitReady { fieldsWritten mod key s with sched := sched, fg := fg } :=
  { h with }

theorem toList_set_zero {α : Type} {n : Nat} (v : Vector α n) (x : α) (h : 0 < n) :
    (v.set 0 x).toList = x :: v.toList.tail := by
  rw [Vector.toList_set]
  cases hv : v.toList with
  | nil => simp [← Vector.length_toList (xs := v), hv] at h
  | cons => rfl

/-- The report of one key (R99). -/
def keyReport (mod key : Byte) : List Byte := [mod, 0, key, 0, 0, 0, 0, 0]

/-- The fields written say one key, where the other slots are empty. -/
theorem buildReport_fieldsWritten (h : s.keyboardKeys.toList.tail = [0, 0, 0, 0, 0])
    (mod key : Byte) : buildReport (fieldsWritten mod key s) = keyReport mod key := by
  simp only [buildReport, fieldsWritten, toList_set_zero _ key (Nat.succ_pos 5), h, keyReport]

/-- An undisturbed `TRANSMIT` of the fields written. -/
theorem stepN_transmit_fieldsWritten {key mod key' mod' : Byte} {n : TxOrd} {rest : List Choice}
    (m : Nat) (h : TransmitReady s) (hkeys : s.keyboardKeys.toList.tail = [0, 0, 0, 0, 0]) :
    stepN (m + 5)
        { fieldsWritten mod' key' s with
          sched := quietTransmit rest, fg := .send key mod (.t0 n) } =
      stepN m (transmitSucceeds key mod n
        { fieldsWritten mod' key' (transmitted (keyReport mod' key') s) with sched := rest }) := by
  rw [← buildReport_fieldsWritten hkeys]
  refine (stepN_quietTransmit m (h.fieldsWritten mod' key' _ _) rfl rfl).trans ?_
  cases n <;> rfl

/-- Settles O44: the call and step 2 write the fields of the first report, steps 4 and 5 those of
the second, and a transmit follows each (R208). -/
theorem sendKeypressSendsKeyDownThenKeyUp : Obligations.SendKeypressSendsKeyDownThenKeyUp := by
  intro key mod s rest hin hfg hconf hphase hkeys htx hbanks hroom hsched
  have hready : TransmitReady s := ⟨hin, hconf, htx, hbanks, hroom⟩
  calc stepN 14 s
    _ = stepN 13
          { s with
            sched := .fg :: quietTransmit (.fg :: .fg :: quietTransmit rest)
            modifierKeys := mod, fg := .send key mod .step2 } :=
        stepN_succ_of_call 13 hin hfg hsched
    _ = stepN 12
          { fieldsWritten mod key s with
            sched := quietTransmit (.fg :: .fg :: quietTransmit rest)
            fg := .send key mod (.t0 .first) } :=
        stepN_succ_of_send 12 hin rfl rfl rfl
    _ = stepN 7
          { fieldsWritten mod key (transmitted (keyReport mod key) s) with
            sched := .fg :: .fg :: quietTransmit rest, fg := .send key mod .step4 } :=
        stepN_transmit_fieldsWritten 7 hready hkeys
    _ = stepN 6
          { fieldsWritten 0 key (transmitted (keyReport mod key) s) with
            sched := .fg :: quietTransmit rest, fg := .send key mod .step5 } :=
        stepN_succ_of_send 6 hin rfl rfl rfl
    _ = stepN 5
          { fieldsWritten 0 0 (transmitted (keyReport mod key) s) with
            sched := quietTransmit rest, fg := .send key mod (.t0 .second) } :=
        stepN_succ_of_send 5 hin rfl rfl (by simp [sendStep, toSendStep, fieldsWritten])
    _ = stepN 0 (transmitSucceeds key mod .second
          { fieldsWritten 0 0 (transmitted (keyReport 0 0) (transmitted (keyReport mod key) s)) with
            sched := rest }) :=
        stepN_transmit_fieldsWritten 0 (hready.transmitted _) hkeys
    _ = _ := by
        simp [stepN, transmitSucceeds, finishCommand, fieldsWritten, transmitted, keyReport, hfg,
          hphase]

end Sys2Proof.Machine
end

section
/-! SUPPORT. The key decoder over more than one step: the order of the keys inside a tick (R135), a
whole gesture (R134), and the two steps of `KP_TAKE` (R137). -/

namespace Sys2Proof.Machine

variable {s : State}

/-! ### The order of the keys -/

/-- Two different keys write different bits, and neither reads a bit the other writes. -/
theorem keyStep_comm (sw : BitVec 3) (m : BitVec 8) {i k : Nat} (hi : i < 3) (hk : k < 3) :
    keyStep sw (keyStep sw m i) k = keyStep sw (keyStep sw m k) i := by
  by_cases hne : i = k
  · rw [hne]
  ext j hj
  simp (disch := omega) only [← BitVec.getLsbD_eq_getElem, getLsbD_keyStep]
  grind

/-- Settles O16: the steps of the three keys commute, so a permutation of them folds alike. -/
theorem tickKeyOrderIsIrrelevant : Obligations.TickKeyOrderIsIrrelevant := by
  intro order sw m hperm
  have hkey : ∀ k ∈ order, k < 3 := fun k hk => by
    have hmem := hperm.mem_iff.1 hk
    grind
  exact hperm.foldl_eq' (fun i hi k hk z => keyStep_comm sw z (hkey i hi) (hkey k hk)) m

/-! ### A gesture -/

/-- The mask after a tick per sample, as long as no gesture ends (R131). -/
def maskAfter (samples : List (BitVec 3)) (m : BitVec 8) : BitVec 8 :=
  samples.foldl (fun m sw => keyLoop sw m) m

/-- An all-released sample latches what is held (R132). -/
theorem latchedAfter_zero (m : BitVec 8) : latchedAfter 0 m = latchedBits m ||| heldBits m := by
  change _ ||| (_ &&& ~~~0#3) = _
  rw [BitVec.not_zero, BitVec.and_allOnes]

/-- A tick adds its sample to the keys that an all-released sample would latch (R132). -/
theorem latchedAfter_zero_keyLoop (sw : BitVec 3) (m : BitVec 8) :
    latchedAfter 0 (keyLoop sw m) = latchedAfter 0 m ||| sw := by
  rw [latchedAfter_zero, latchedAfter_zero, heldBits_keyLoop, latchedBits_keyLoop, latchedAfter]
  ext k hk
  simp only [BitVec.getElem_or, BitVec.getElem_and, BitVec.getElem_not]
  cases sw[k] <;> simp

/-- So after a run of samples these are the keys before it and every switch touched in it. -/
theorem latchedAfter_zero_maskAfter (samples : List (BitVec 3)) (m : BitVec 8) :
    latchedAfter 0 (maskAfter samples m) = samples.foldl (· ||| ·) (latchedAfter 0 m) := by
  induction samples generalizing m with
  | nil => rfl
  | cons sw rest ih =>
    rw [List.foldl_cons, ← latchedAfter_zero_keyLoop]
    exact ih _

theorem foldl_or_eq_zero_iff {w : Nat} (samples : List (BitVec w)) (a : BitVec w) :
    samples.foldl (· ||| ·) a = 0#w ↔ a = 0#w ∧ ∀ v ∈ samples, v = 0#w := by
  induction samples generalizing a with
  | nil => simp
  | cons v rest ih =>
    rw [List.foldl_cons, ih, BitVec.or_eq_zero_iff, List.forall_mem_cons, and_assoc]

theorem touched_ne_zero {samples : List (BitVec 3)} (hne : samples ≠ [])
    (hpressed : ∀ v ∈ samples, v ≠ 0) : touched samples ≠ 0 := by
  obtain ⟨v, rest, rfl⟩ := List.exists_cons_of_ne_nil hne
  intro h
  obtain ⟨-, hzero⟩ := (foldl_or_eq_zero_iff _ _).1 h
  exact hpressed v List.mem_cons_self (hzero v List.mem_cons_self)

/-- A tick that finds a key pressed writes the mask alone (R131). -/
theorem exec_tick_of_pressed {sw : BitVec 3} (h : sw ≠ 0) (s : State) :
    exec (.tick sw) s = .next { s with keyMask := keyLoop sw s.keyMask } :=
  (execTick_eq sw s).trans (by rw [if_neg fun hend => h hend.1])

/-- A tick with nothing pressed emits once what latches, if anything does (R133). -/
theorem exec_tick_zero_of_latched (h : latchedAfter 0 s.keyMask ≠ 0) :
    exec (.tick 0) s = .next (emitted (latchedAfter 0 s.keyMask) s) :=
  (execTick_eq 0 s).trans (by rw [if_pos ⟨rfl, h⟩])

/-- A tick with nothing pressed and nothing in the mask changes nothing (R134). -/
theorem exec_tick_zero_of_mask_zero (h : s.keyMask = 0) : exec (.tick 0) s = .next s := by
  have hlatched : latchedAfter 0 s.keyMask = 0 := by rw [h]; decide
  have hmask : keyLoop 0 s.keyMask = s.keyMask := by rw [h]; decide
  exact (execTick_eq 0 s).trans (by rw [if_neg fun hend => hend.2 hlatched, hmask])

/-- Ticks that each find a key pressed write the mask alone. -/
theorem runAll_tick_of_pressed {samples : List (BitVec 3)} (hpressed : ∀ v ∈ samples, v ≠ 0)
    (s : State) :
    runAll (samples.map .tick) s = .next { s with keyMask := maskAfter samples s.keyMask } := by
  induction samples generalizing s with
  | nil => rfl
  | cons sw rest ih =>
    obtain ⟨hsw, hrest⟩ := List.forall_mem_cons.1 hpressed
    rw [List.map_cons, runAll, exec_tick_of_pressed hsw, andThen_next, ih hrest]
    rfl

/-- Settles O17: the samples collect in the mask, and the closing tick emits what collected. -/
theorem gestureEmitsTheOrOnce : Obligations.GestureEmitsTheOrOnce := by
  intro samples s hmask hne hpressed
  have hrun := runAll_tick_of_pressed hpressed s
  have hcollected : latchedAfter 0 (maskAfter samples s.keyMask) = touched samples := by
    rw [latchedAfter_zero_maskAfter, hmask]
    rfl
  refine ⟨⟨_, hrun⟩, ?_, exec_tick_zero_of_mask_zero hmask⟩
  rw [List.map_append, runAll_append, hrun, andThen_next, List.map_singleton, runAll_singleton,
    exec_tick_zero_of_latched (by rw [hcollected]; exact touched_ne_zero hne hpressed), hcollected]
  simp only [emitted, handleKeypress, emittedCell_eq]
  rfl

/-! ### KP_TAKE -/

/-- Step 1 of `KP_TAKE` reads the cell. -/
theorem execKpTake_of_idle (hin : s.inHandler = false) (hfg : s.fg = .idle) :
    execKpTake s = .next { s with fg := .kpTake s.kpCell } := by
  simp [execKpTake, hin, hfg]

/-- Step 2 clears the cell if a Keypress was read, and returns what was read. -/
theorem execKpTake_of_read {v : BitVec 3} (hin : s.inHandler = false) (hfg : s.fg = .kpTake v) :
    execKpTake s =
      .next (finishCommand (.kpTake v) { s with kpCell := if v ≠ 0 then 0 else s.kpCell }) := by
  simp [execKpTake, hin, hfg]

/-- Settles O18: the foreground's position says which of the two steps runs. -/
theorem kpTakeReadsThenClears : Obligations.KpTakeReadsThenClears :=
  fun _ _ hin => ⟨execKpTake_of_idle hin, execKpTake_of_read hin⟩

end Sys2Proof.Machine
end

section
/-! SUPPORT. A handler's step runs what its word selects (R150, R154, R244 to R246), and the general
interrupt: end-of-reset (R151) and start of frame, with the idle timer over a whole interval (R152,
R159). -/

namespace Sys2Proof.Machine

variable {s : State}

/-! ### What starts and what a running handler serves -/

theorem mayStart_of_pending {hd : Handler} (hpend : s.pending hd = true) (hen : s.intEnable = true)
    (hin : s.inHandler = false) : s.mayStart hd = true := by
  simp [State.mayStart, hpend, hen, hin]

/-- A handler that may start enters, runs the operations its word selects, and leaves unless there is
a request to serve. -/
theorem startHandler_of_mayStart {hd : Handler} (h : s.mayStart hd = true) :
    startHandler hd s =
      mapNext (afterStart hd s.ep0Rxstp)
        (runAll (operationsOf s.cfg.keyboardInterface (handlerWord hd s)) (enterHandler hd s)) :=
  if_pos h

/-- A scheduled start of a pending handler, with interrupts enabled and no handler running. -/
theorem step_start_of_pending {hd : Handler} {rest : List Choice} (hen : s.intEnable = true)
    (hin : s.inHandler = false) (hpend : s.pending hd = true) (hsched : s.sched = .start hd :: rest) :
    step s =
      mapNext (afterStart hd s.ep0Rxstp)
        (runAll (operationsOf s.cfg.keyboardInterface (handlerWord hd { s with sched := rest }))
          (enterHandler hd { s with sched := rest })) := by
  have hmay : State.mayStart { s with sched := rest } hd = true :=
    mayStart_of_pending (by cases hd <;> exact hpend) hen hin
  rw [step_of_sched hsched]
  exact startHandler_of_mayStart hmay

/-- `A_EP` goes on only with a request to serve, that is after a new SETUP packet (R154). -/
theorem afterStart_ep (rxstp : Bool) (s : State) :
    afterStart .ep rxstp s = { s with inHandler := rxstp && s.inHandler } := by
  cases rxstp <;> rfl

/-- Settles O7, handler by handler: the word at the port or at the cause latches selects the
operations, and the handler leaves as R150 and R154 say. -/
theorem startedHandlerRunsItsOperations : Obligations.StartedHandlerRunsItsOperations := by
  intro s rest hen hin
  refine ⟨fun hpend hsched => ?_, fun hpend hsched => ?_, fun hpend hsched => ?_⟩
  · rw [step_start_of_pending (hd := .tick) hen hin hpend hsched, operationsOf_tick,
      runAll_singleton]
    rfl
  · rw [step_start_of_pending (hd := .gen) hen hin hpend hsched, operationsOf_gen]
    rfl
  · rw [step_start_of_pending (hd := .ep) hen hin hpend hsched, operationsOf_ep, runAll_singleton,
      funext (afterStart_ep s.ep0Rxstp)]
    rfl

/-- A running handler runs the operation that the word in `setup_pkt` decodes to. -/
theorem advanceHandler_of_inHandler (h : s.inHandler = true) :
    advanceHandler s =
      mapNext afterRequest
        (exec (decodeSetup s.cfg.keyboardInterface s.setupPkt.word) s) := by
  rw [advanceHandler, if_pos h, operationsOf_request, runAll_singleton]
  rfl

/-- Settles O8: the scheduled advance of a running handler is the request's meaning. -/
theorem servedRequestIsTheDecodedWord : Obligations.ServedRequestIsTheDecodedWord := by
  intro s rest hin hsched
  rw [step_of_sched hsched]
  exact advanceHandler_of_inHandler hin

/-! ### End of reset -/

/-- What end-of-reset does to `sof_div` where it keeps the rest of HidState (log entry 40). -/
theorem keptSofDiv_eq (s : State) :
    keptSofDiv s = if s.cfg.sofDivReset = .always then 0 else s.sofDiv := by
  cases h : s.cfg.sofDivReset <;> simp [keptSofDiv, h]

/-- Settles O23: the scope says which fields of HidState go back to their defaults. -/
theorem endOfResetRestoresTheSession : Obligations.EndOfResetRestoresTheSession := by
  intro s
  constructor
  · intro hall
    rcases execGiEorst_cases (s := s) rfl with ⟨hscope, _⟩ | ⟨_, hnext⟩
    · rw [hall] at hscope
      cases hscope
    · exact congrArg Host.Outcome.next hnext
  · intro hconf
    rcases execGiEorst_cases (s := s) rfl with ⟨_, hnext⟩ | ⟨hscope, _⟩
    · rw [← keptSofDiv_eq]
      exact congrArg Host.Outcome.next hnext
    · rw [hconf] at hscope
      cases hscope

/-! ### Start of frame -/

/-- While unconfigured or with `idle_config = 0` no counter moves. -/
theorem execGiSof_of_off (h : s.configuration = 0 ∨ s.idleConfig = 0) :
    execGiSof s = .next s := by
  rcases h with h | h <;> simp [execGiSof, State.configured, h]

/-- The two-bit divider wraps after 3. -/
theorem divider_wraps_iff (d : BitVec 2) : d + 1 = 0 ↔ d = 3 := by
  revert d
  decide

section

variable (hconf : s.configuration ≠ 0) (hidle : s.idleConfig ≠ 0)
include hconf hidle

/-- The divider counts a frame; where it wraps with the endpoint ready, an idle unit has passed. -/
theorem execGiSof_of_on :
    execGiSof s = .next
      (if s.sofDiv + 1 = 0 ∧ s.kbRwal = true then idleUnit { s with sofDiv := s.sofDiv + 1 }
      else { s with sofDiv := s.sofDiv + 1 }) := by
  have hon : (s.configured && s.idleConfig != 0) = true :=
    Bool.and_eq_true_iff.2 ⟨configured_of_ne_zero hconf, bne_iff_ne.2 hidle⟩
  exact if_pos hon

/-- No idle unit has passed: the divider alone counts. -/
theorem execGiSof_of_no_unit (h : s.sofDiv ≠ 3 ∨ s.kbRwal = false) :
    execGiSof s = .next { s with sofDiv := s.sofDiv + 1 } := by
  rw [execGiSof_of_on hconf hidle, if_neg]
  rintro ⟨hwrap, hready⟩
  rcases h with h | h
  · exact h ((divider_wraps_iff _).1 hwrap)
  · rw [hready] at h
    cases h

/-- An idle unit has passed: the divider wraps with the endpoint ready. -/
theorem execGiSof_of_unit (hdiv : s.sofDiv = 3) (hready : s.kbRwal = true) :
    execGiSof s = .next (idleUnit { s with sofDiv := 0 }) := by
  have hwrap : s.sofDiv + 1 = 0 := (divider_wraps_iff _).2 hdiv
  rw [execGiSof_of_on hconf hidle, if_pos ⟨hwrap, hready⟩, hwrap]

/-- A unit that is not the last is counted. -/
theorem execGiSof_of_inner_unit (hdiv : s.sofDiv = 3) (hready : s.kbRwal = true)
    (hne : s.idleCount + 1 ≠ s.idleConfig) :
    execGiSof s = .next { s with sofDiv := 0, idleCount := s.idleCount + 1 } :=
  (execGiSof_of_unit hconf hidle hdiv hready).trans (congrArg Host.Outcome.next (if_neg hne))

/-- At the last unit the count starts over and the report goes out. -/
theorem execGiSof_of_last_unit (hdiv : s.sofDiv = 3) (hready : s.kbRwal = true)
    (heq : s.idleCount + 1 = s.idleConfig) :
    execGiSof s = .next (pushReport { s with sofDiv := 0, idleCount := 0 }) :=
  (execGiSof_of_unit hconf hidle hdiv hready).trans (congrArg Host.Outcome.next (if_pos heq))

end

/-- Settles O24, case by case. -/
theorem startOfFrameDrivesTheIdleTimer : Obligations.StartOfFrameDrivesTheIdleTimer := by
  intro s
  refine ⟨execGiSof_of_off, execGiSof_of_no_unit, execGiSof_of_inner_unit,
    fun hconf hidle hdiv hready heq => ?_⟩
  have hreport := execGiSof_of_last_unit hconf hidle hdiv hready heq
  rw [pushReport_eq] at hreport
  exact hreport

/-! ### A whole interval of the idle timer -/

/-- A fresh interval after `n` frames: an idle unit counted for every 4, the divider modulo 4. -/
def afterFrames (n : Nat) (s : State) : State :=
  { s with idleCount := BitVec.ofNat 8 (n / 4), sofDiv := BitVec.ofNat 2 n }

theorem afterFrames_zero (hcount : s.idleCount = 0) (hdiv : s.sofDiv = 0) :
    afterFrames 0 s = s := by
  change { s with idleCount := 0, sofDiv := 0 } = s
  rw [← hcount, ← hdiv]

theorem ofNat_two_eq_three_iff (n : Nat) : BitVec.ofNat 2 n = 3 ↔ n % 4 = 3 := by
  rw [← BitVec.toNat_inj, BitVec.toNat_ofNat]
  rfl

section

variable (hconf : s.configuration ≠ 0) (hidle : s.idleConfig ≠ 0) (hready : s.kbRwal = true)
include hconf hidle hready

/-- Inside the interval a frame is counted and nothing is sent. -/
theorem exec_giSof_afterFrames {n : Nat} (hn : n + 1 < 4 * s.idleConfig.toNat) :
    exec .giSof (afterFrames n s) = .next (afterFrames (n + 1) s) := by
  by_cases h : BitVec.ofNat 2 n = 3
  · have hmod : n % 4 = 3 := (ofNat_two_eq_three_iff n).1 h
    have hunit : (n + 1) / 4 = n / 4 + 1 := by omega
    have hwrap : BitVec.ofNat 2 (n + 1) = 0 := (BitVec.ofNat_add n 1).trans
      ((divider_wraps_iff _).2 h)
    have hne : BitVec.ofNat 8 (n / 4) + 1 ≠ s.idleConfig := by
      have hlt := s.idleConfig.isLt
      bv_omega
    refine (execGiSof_of_inner_unit (s := afterFrames n s) hconf hidle h hready hne).trans ?_
    rw [afterFrames, afterFrames, hunit, hwrap, BitVec.ofNat_add]
    rfl
  · have hmod : n % 4 ≠ 3 := mt (ofNat_two_eq_three_iff n).2 h
    have hunit : (n + 1) / 4 = n / 4 := by omega
    refine (execGiSof_of_no_unit (s := afterFrames n s) hconf hidle (.inl h)).trans ?_
    rw [afterFrames, afterFrames, hunit, BitVec.ofNat_add]
    rfl

/-- The frame that ends the interval sends the report and starts over. -/
theorem exec_giSof_last :
    exec .giSof (afterFrames (4 * s.idleConfig.toNat - 1) s) =
      .next (pushReport (afterFrames 0 s)) := by
  have hpos : 0 < s.idleConfig.toNat := by bv_omega
  have hdiv : BitVec.ofNat 2 (4 * s.idleConfig.toNat - 1) = 3 :=
    (ofNat_two_eq_three_iff _).2 (by omega)
  have hmatch : BitVec.ofNat 8 ((4 * s.idleConfig.toNat - 1) / 4) + 1 = s.idleConfig := by
    have hlt := s.idleConfig.isLt
    bv_omega
  exact execGiSof_of_last_unit (s := afterFrames _ s) hconf hidle hdiv hready hmatch

/-- Fewer frames than the interval has move the two counters alone. -/
theorem runAll_giSof_within {n : Nat} (hcount : s.idleCount = 0) (hdiv : s.sofDiv = 0)
    (hn : n < 4 * s.idleConfig.toNat) :
    runAll (List.replicate n .giSof) s = .next (afterFrames n s) := by
  induction n with
  | zero => exact congrArg Host.Outcome.next (afterFrames_zero hcount hdiv).symm
  | succ n ih =>
    rw [List.replicate_succ', runAll_append, ih (by omega), andThen_next, runAll_singleton,
      exec_giSof_afterFrames hconf hidle hready hn]

end

/-- Settles O25, by induction on the frames before the last, which sends the report. -/
theorem idlePeriodIsFourFramesPerUnit : Obligations.IdlePeriodIsFourFramesPerUnit := by
  intro s hconf hidle hcount hdiv hready
  have hpos : 0 < s.idleConfig.toNat := by bv_omega
  have hwithin := runAll_giSof_within (n := 4 * s.idleConfig.toNat - 1) hconf hidle hready hcount
    hdiv (by omega)
  refine ⟨⟨_, _, hwithin⟩, ?_⟩
  rw [← Nat.sub_add_cancel (show 1 ≤ 4 * s.idleConfig.toNat by omega), List.replicate_succ',
    runAll_append, hwithin, andThen_next, runAll_singleton, exec_giSof_last hconf hidle hready,
    afterFrames_zero hcount hdiv]

end Sys2Proof.Machine
end

section
/-! SUPPORT. The requests of `A_EP` from no hold and at a hold: the fixed replies (R173, R177, R191,
R192, R194), one poll of a data stage (R171), `SET_ADDRESS` (R174) and `SET_CONFIGURATION`
(R178). -/

namespace Sys2Proof.Machine

variable {s : State}

/-! ### The ceiling of a hold (D20, log entry 20) -/

theorem holdExpired_iff {polls : Nat} :
    s.holdExpired polls = true ↔
      ∃ ceiling, s.cfg.ctrlWaitCeiling = some ceiling ∧ ceiling ≤ polls := by
  unfold State.holdExpired
  split <;> simp [*]

theorem holdExpired_eq_false_iff {polls : Nat} :
    s.holdExpired polls = false ↔
      ∀ ceiling, s.cfg.ctrlWaitCeiling = some ceiling → polls < ceiling := by
  rw [← Bool.not_eq_true, holdExpired_iff]
  simp

theorem holdExpired_of_unbounded (h : s.cfg.ctrlWaitCeiling = none) (polls : Nat) :
    s.holdExpired polls = false :=
  holdExpired_eq_false_iff.2 (by simp [h])

theorem holdExpired_of_lt {polls ceiling : Nat} (h : s.cfg.ctrlWaitCeiling = some ceiling)
    (hlt : polls < ceiling) : s.holdExpired polls = false :=
  holdExpired_eq_false_iff.2 (by simpa [h] using hlt)

theorem nextPolls_eq (s : State) (polls : Nat) :
    s.nextPolls polls = if s.cfg.ctrlWaitCeiling = none then polls else polls + 1 := by
  unfold State.nextPolls
  split <;> simp [*]

theorem nextPolls_of_unbounded (h : s.cfg.ctrlWaitCeiling = none) (polls : Nat) :
    s.nextPolls polls = polls := by
  rw [nextPolls_eq, if_pos h]

theorem nextPolls_of_ceiling {ceiling : Nat} (h : s.cfg.ctrlWaitCeiling = some ceiling)
    (polls : Nat) : s.nextPolls polls = polls + 1 := by
  rw [nextPolls_eq, h, if_neg (Option.some_ne_none ceiling)]

/-! ### A data stage starts -/

theorem controlIn_of_idle (h : s.ctlPhase = .idle) (data : List Byte) (l : Half) :
    controlIn data l s = { s with ctlPhase := stageStart data l } := by
  rw [controlIn, h]
  rfl

/-- Settles O29: each of the five is `SendControlData` over its reply. -/
theorem inRequestsStartTheirReply : Obligations.InRequestsStartTheirReply := by
  intro v ix l s hidle
  have start (reply : List Byte) :
      Host.Outcome.next (controlIn reply l s) =
        (.next { s with ctlPhase := stageStart reply l } : Host.Outcome State Fault Refusal) := by
    rw [controlIn_of_idle hidle]
  refine ⟨start _, start _, (start (buildReport s)).trans ?_, start _, start _⟩
  rw [stageStart, buildReport_length]
  rfl

/-! ### One poll of a data stage -/

/-- The requests that have a data stage (R171). -/
def dataRequests (v ix l : Half) : List Instr :=
  [.getStatus v ix l, .getDescriptorDevice v ix l, .getDescriptorInterface v ix l,
    .getConfiguration v ix l, .getReport v l, .getIdle v l, .getProtocol v l]

theorem dataStageDone_iff {off n len wlen : Nat} :
    dataStageDone off n len wlen = true ↔ off = len ∧ (n < 32 ∨ len = wlen) := by
  simp only [dataStageDone, Bool.and_eq_true, Bool.or_eq_true, beq_iff_eq, decide_eq_true_eq]
  rfl

/-- Where a data stage stands once its packet at offset `off` has gone out (R171). -/
def phaseAfterPacket (data : List Byte) (off len wlen : Nat) : CtlPhase :=
  if off + min (len - off) 32 = len ∧ (min (len - off) 32 < 32 ∨ len = wlen) then .idle
  else .dataIn data (off + min (len - off) 32) len wlen 0

section

variable {data : List Byte} {off len wlen polls : Nat}

theorem getDescriptor_of_dataIn (h : s.ctlPhase = .dataIn data off len wlen polls) (v l : Half) :
    getDescriptor v l s = .next (controlDataPoll data off len wlen polls s) := by
  rw [getDescriptor, h]

/-- At a hold the reply is fixed: every request with a data stage takes a poll of that stage. -/
theorem exec_of_dataIn (h : s.ctlPhase = .dataIn data off len wlen polls) (v ix l : Half) :
    ∀ i ∈ dataRequests v ix l, exec i s = .next (controlDataPoll data off len wlen polls s) := by
  have control (reply : List Byte) :
      Host.Outcome.next (controlIn reply l s) =
        (.next (controlDataPoll data off len wlen polls s) : Host.Outcome State Fault Refusal) := by
    rw [controlIn, h]
  have descriptor := getDescriptor_of_dataIn h v l
  simp only [dataRequests, List.forall_mem_cons]
  exact ⟨control _, descriptor, descriptor, control _, control _, control _, control _, nofun⟩

/-- A hold whose ceiling is used up is abandoned, as on abort (R171, D20). -/
theorem controlDataPoll_of_expired (h : s.holdExpired polls = true) :
    controlDataPoll data off len wlen polls s = { s with ctlPhase := .idle } :=
  if_pos h

/-- `RxOut` wins, and ends the stage silently (R171). -/
theorem controlDataPoll_of_rxOut (hopen : s.holdExpired polls = false) (hout : s.ep0Rxout = true) :
    controlDataPoll data off len wlen polls s = { s with ctlPhase := .idle } := by
  simp [controlDataPoll, hopen, State.rxOut, hout]

/-- With neither flag the hold stands (R171). -/
theorem controlDataPoll_of_waiting (hopen : s.holdExpired polls = false)
    (hout : s.ep0Rxout = false) (hready : s.ep0Txini = false) :
    controlDataPoll data off len wlen polls s =
      { s with ctlPhase := .dataIn data off len wlen (s.nextPolls polls) } := by
  simp [controlDataPoll, hopen, State.rxOut, hout, State.txReady, hready]

/-- `TxReady` lets the next packet out (R171, R176). -/
theorem controlDataPoll_of_ready (hopen : s.holdExpired polls = false) (hout : s.ep0Rxout = false)
    (hready : s.ep0Txini = true) :
    controlDataPoll data off len wlen polls s =
      { s with
        txLog := s.txLog ++ [⟨0, s.ep0Tx ++ chunk data off len⟩]
        ep0Banks := s.ep0Filled (s.ep0Tx ++ chunk data off len)
        ep0Tx := []
        ep0Txini := false
        ctlPhase := phaseAfterPacket data off len wlen } := by
  simp only [controlDataPoll, hopen, State.rxOut, hout, State.txReady, hready, if_true,
    Bool.false_eq_true, if_false, epSend_epWriteAll_ep0, dataStageDone_iff, phaseAfterPacket,
    Config.ep0Size]
  split <;> rfl

end

/-- Settles O31, flag by flag. -/
theorem dataStagePollSendsOnePacket : Obligations.DataStagePollSendsOnePacket := by
  intro v ix l s data off len wlen polls hphase hceiling i hi
  have hopen := holdExpired_eq_false_iff.2 hceiling
  rw [exec_of_dataIn hphase v ix l i hi]
  refine ⟨fun hout => ?_, fun hout hready => ?_, fun hout hready => ?_⟩
  · rw [controlDataPoll_of_rxOut hopen hout]
  · rw [controlDataPoll_of_waiting hopen hout hready, nextPolls_eq]
  · rw [controlDataPoll_of_ready hopen hout hready]
    rfl

/-- Settles O32: the ceiling is compared before the flags are read. -/
theorem finiteCeilingAbandonsTheStage : Obligations.FiniteCeilingAbandonsTheStage := by
  intro v ix l s data off len wlen polls ceiling hphase hceiling i hi
  rw [exec_of_dataIn hphase v ix l i hi]
  refine ⟨fun hle => ?_, fun hlt hout hready => ?_⟩
  · rw [controlDataPoll_of_expired (holdExpired_iff.2 ⟨ceiling, hceiling, hle⟩)]
  · rw [controlDataPoll_of_waiting (holdExpired_of_lt hceiling hlt) hout hready,
      nextPolls_of_ceiling hceiling]

/-! ### SET_ADDRESS -/

section

variable {addr : BitVec 7} {polls : Nat}

/-- At its hold `SET_ADDRESS` takes a poll, whatever its operands. -/
theorem exec_setAddress_of_addrWait (h : s.ctlPhase = .addrWait addr polls) (v ix l : Half) :
    exec (.setAddress v ix l) s = .next (addressPoll addr polls s) := by
  rw [exec, execSetAddress, h]

/-- The packet has left, or the ceiling is used up: the address is written (R174). -/
theorem addressPoll_of_over (h : s.holdExpired polls = true ∨ s.ep0Txini = true) :
    addressPoll addr polls s = { s with devAddr := addr, addrEn := true, ctlPhase := .idle } :=
  if_pos (Bool.or_eq_true_iff.2 h)

/-- Until then the hold stands (R174). -/
theorem addressPoll_of_waiting (hopen : s.holdExpired polls = false) (hready : s.ep0Txini = false) :
    addressPoll addr polls s = { s with ctlPhase := .addrWait addr (s.nextPolls polls) } := by
  simp [addressPoll, hopen, State.txReady, hready]

end

/-- Settles O34: the start, and each way a poll can go. -/
theorem setAddressWaitsForItsPacket : Obligations.SetAddressWaitsForItsPacket := by
  intro v ix l s
  refine ⟨fun hidle => ?_, fun addr polls hphase hready => ?_,
    fun addr polls hphase hready hceiling => ?_,
    fun addr polls ceiling hphase hready hceiling hlt => ?_,
    fun addr polls ceiling hphase _ hceiling hle => ?_⟩
  · rw [exec, execSetAddress, hidle]
    rfl
  all_goals rw [exec_setAddress_of_addrWait hphase]
  · rw [addressPoll_of_over (.inr hready)]
  · rw [addressPoll_of_waiting (holdExpired_of_unbounded hceiling polls) hready,
      nextPolls_of_unbounded hceiling, ← hphase]
  · rw [addressPoll_of_waiting (holdExpired_of_lt hceiling hlt) hready,
      nextPolls_of_ceiling hceiling]
  · rw [addressPoll_of_over (.inl (holdExpired_iff.2 ⟨ceiling, hceiling, hle⟩))]

/-! ### SET_CONFIGURATION -/

/-- The whole 16-bit value is compared (R178). -/
theorem configurationValid_iff {v : Half} : configurationValid v = true ↔ v = 1 :=
  beq_iff_eq

/-- Settles O35: the value is 1, or the request is a protocol stall. -/
theorem setConfigurationValidatesTheValue : Obligations.SetConfigurationValidatesTheValue := by
  intro v ix l s hidle
  refine ⟨fun hv => if_pos (configurationValid_iff.2 hv), fun hv => ?_⟩
  rw [exec, execSetConfiguration, if_neg (mt configurationValid_iff.1 hv), protocolStall, ← hidle]
  rfl

end Sys2Proof.Machine
end

section
/-! SUPPORT. A whole `GET_DESCRIPTOR` under a host that collects each packet and lifts each hold
(R171, R175, R176): which packets its data stage lets out, and the run that commits them. -/

namespace Sys2Proof.Machine

/-! ### The packets of a stage -/

/-- From offset `off`, a data stage lets out these packets before it ends. -/
inductive StageSends (data : List Byte) (len wlen : Nat) : Nat → List (List Byte) → Prop where
  | last {off : Nat} (h : phaseAfterPacket data off len wlen = .idle) :
      StageSends data len wlen off [chunk data off len]
  | more {off off' : Nat} {packets : List (List Byte)}
      (h : phaseAfterPacket data off len wlen = .dataIn data off' len wlen 0)
      (hmore : StageSends data len wlen off' packets) :
      StageSends data len wlen off (chunk data off len :: packets)

section

variable {data : List Byte} {off len wlen : Nat}

theorem StageSends.ne_nil {packets : List (List Byte)}
    (h : StageSends data len wlen off packets) : packets ≠ [] := by
  cases h <;> exact List.cons_ne_nil _ _

theorem phaseAfterPacket_of_whole (hwhole : off + 32 ≤ len)
    (hmore : off + 32 = len → len ≠ wlen) :
    phaseAfterPacket data off len wlen = .dataIn data (off + 32) len wlen 0 := by
  have hn : min (len - off) 32 = 32 := by omega
  rw [phaseAfterPacket, hn, if_neg]
  rintro ⟨hend, hshort | hwlen⟩
  · omega
  · exact hmore hend hwlen

theorem phaseAfterPacket_of_end (hoff : off ≤ len)
    (hend : len < off + 32 ∨ len = off + 32 ∧ len = wlen) :
    phaseAfterPacket data off len wlen = .idle := by
  refine if_pos ?_
  omega

/-- Packet `p` while it is a whole one. -/
def fullPacket (data : List Byte) (p : Nat) : List Byte := (data.drop (32 * p)).take 32

/-- The short packet behind the whole ones, where there is one (R171, R176). -/
def shortPacket (data : List Byte) (len wlen : Nat) : List (List Byte) :=
  if len % 32 = 0 ∧ len = wlen ∧ len ≠ 0 then []
  else [(data.drop (32 * (len / 32))).take (len % 32)]

theorem dataStagePackets_eq (data : List Byte) (wlen : Nat) :
    dataStagePackets data wlen =
      (List.range' 0 (min data.length wlen / 32)).map (fullPacket data) ++
        shortPacket data (min data.length wlen) wlen := by
  rw [← List.range_eq_range']
  rfl

theorem chunk_of_whole {p : Nat} (h : 32 * p + 32 ≤ len) :
    chunk data (32 * p) len = fullPacket data p := by
  have hn : min (len - 32 * p) Config.ep0Size = 32 := by
    rw [Config.ep0Size]
    omega
  rw [chunk, hn, fullPacket]

theorem chunk_of_short :
    chunk data (32 * (len / 32)) len = (data.drop (32 * (len / 32))).take (len % 32) := by
  have hn : min (len - 32 * (len / 32)) Config.ep0Size = len % 32 := by
    rw [Config.ep0Size]
    omega
  rw [chunk, hn]

theorem shortPacket_eq_nil_iff :
    shortPacket data len wlen = [] ↔ len % 32 = 0 ∧ len = wlen ∧ len ≠ 0 := by
  unfold shortPacket
  split
  · exact iff_of_true rfl ‹_›
  · exact iff_of_false (List.cons_ne_nil _ _) ‹_›

/-- The short packet goes out behind the last whole one. -/
theorem stageSends_shortPacket (h : shortPacket data len wlen ≠ []) :
    StageSends data len wlen (32 * (len / 32)) (shortPacket data len wlen) := by
  rw [shortPacket, if_neg (mt shortPacket_eq_nil_iff.2 h), ← chunk_of_short]
  exact .last (phaseAfterPacket_of_end (by omega) (by omega))

/-- From packet `p` on, the `k` whole packets that are left and the short one go out. -/
theorem stageSends_from {p k : Nat} (hpk : p + k = len / 32)
    (hsome : k = 0 → shortPacket data len wlen ≠ []) :
    StageSends data len wlen (32 * p)
      ((List.range' p k).map (fullPacket data) ++ shortPacket data len wlen) := by
  induction k generalizing p with
  | zero =>
    obtain rfl : p = len / 32 := hpk
    exact stageSends_shortPacket (hsome rfl)
  | succ k ih =>
    have hwhole : 32 * p + 32 ≤ len := by omega
    rw [List.range'_succ, List.map_cons, List.cons_append, ← chunk_of_whole hwhole]
    by_cases hlast : k = 0 ∧ shortPacket data len wlen = []
    · obtain ⟨rfl, hnone⟩ := hlast
      have hend := shortPacket_eq_nil_iff.1 hnone
      rw [hnone]
      exact .last (phaseAfterPacket_of_end (by omega) (by omega))
    · refine .more (phaseAfterPacket_of_whole hwhole fun hend hwlen => hlast ?_)
        (ih (p := p + 1) (by omega) (not_and.1 hlast))
      exact ⟨by omega, shortPacket_eq_nil_iff.2 (by omega)⟩

/-- A data stage lets out the packets of R171 and R176. -/
theorem stageSends_dataStagePackets (data : List Byte) (wlen : Nat) :
    StageSends data (min data.length wlen) wlen 0 (dataStagePackets data wlen) := by
  rw [dataStagePackets_eq]
  refine stageSends_from (p := 0) (Nat.zero_add _) fun hzero hnone => ?_
  have := shortPacket_eq_nil_iff.1 hnone
  omega

end

variable {s : State}

/-! ### The moves of the stage -/

/-- `A_EP` serves a `GET_DESCRIPTOR`: the host sends no OUT packet, no finite ceiling bounds the
holds, no byte is left uncommitted, and at most one packet stands in EP0's one bank. -/
structure ServesDescriptor (v l : Half) (s : State) : Prop where
  request : ∃ bm ix, (bm = 0x80 ∨ bm = 0x81) ∧ s.setupPkt = ⟨bm, 0x06, v, ix, l⟩
  inHandler : s.inHandler = true
  unbounded : s.cfg.ctrlWaitCeiling = none
  noOut : s.ep0Rxout = false
  ep0Tx : s.ep0Tx = []
  bank : s.ep0Banks.length ≤ 1

/-- Packets have gone out on EP0: they stand in the log, and the last of them in EP0's one bank. -/
def packetsSent (packets : List (List Byte)) (s : State) : State :=
  { s with
    ep0Txini := false
    ep0Banks := packets.getLast?.toList
    txLog := s.txLog ++ packets.map fun bs => ⟨0, bs⟩ }

theorem packetsSent_cons (packet : List Byte) {packets : List (List Byte)} (h : packets ≠ [])
    (s : State) :
    packetsSent (packet :: packets) s = packetsSent packets (packetsSent [packet] s) := by
  obtain ⟨p, ps, rfl⟩ := List.exists_cons_of_ne_nil h
  simp [packetsSent]

theorem afterRequest_of_idle (h : s.ctlPhase = .idle) : afterRequest s = leaveHandler s := if_pos h

/-- At a hold the handler is not left (R155). -/
theorem afterRequest_of_dataIn {data : List Byte} {off len wlen polls : Nat}
    (h : s.ctlPhase = .dataIn data off len wlen polls) : afterRequest s = s := by
  simp [afterRequest, h]

section

variable {v l : Half}

/-- The words of both recipients run one meaning (R175, 90_conflicts.md C4). -/
theorem ServesDescriptor.exec_request (h : ServesDescriptor v l s) (kbIf : Half) (t : State) :
    exec (decodeSetup kbIf s.setupPkt.word) t = getDescriptor v l t := by
  obtain ⟨bm, ix, rfl | rfl, hpkt⟩ := h.request <;> rw [hpkt]
  · exact congrArg (exec · t) (decodeSetup_ofFields (i := ix)
      (r := ⟨0x80, 0x06, false, .getDescriptorDevice⟩) (by simp [dispatchRows]))
  · exact congrArg (exec · t) (decodeSetup_ofFields (i := ix)
      (r := ⟨0x81, 0x06, false, .getDescriptorInterface⟩) (by simp [dispatchRows]))

theorem ServesDescriptor.atPhase (h : ServesDescriptor v l s) (sched : List Choice)
    (phase : CtlPhase) : ServesDescriptor v l { s with sched := sched, ctlPhase := phase } :=
  { h with }

theorem ServesDescriptor.packetSent (h : ServesDescriptor v l s) (packet : List Byte)
    (sched : List Choice) (phase : CtlPhase) :
    ServesDescriptor v l
      { packetsSent [packet] s with sched := sched, ctlPhase := phase } :=
  { h with bank := Nat.le_refl 1 }

/-- A scheduled advance of `A_EP` takes the next step of the `GET_DESCRIPTOR` it serves. -/
theorem stepN_succ_of_getDescriptor {rest : List Choice} {t : State} (n : Nat)
    (h : ServesDescriptor v l s) (hsched : s.sched = .advance :: rest)
    (ht : getDescriptor v l { s with sched := rest } = .next t) :
    stepN (n + 1) s = stepN n (afterRequest t) := by
  refine stepN_succ_of_sched n hsched
    ((advanceHandler_of_inHandler (s := { s with sched := rest }) h.inHandler).trans ?_)
  rw [h.exec_request, ht, mapNext_next]

/-- A poll that finds EP0 ready and its bank empty: the next packet stands there. -/
theorem ServesDescriptor.getDescriptor_of_ready {data : List Byte} {off len wlen polls : Nat}
    (h : ServesDescriptor v l s) (hphase : s.ctlPhase = .dataIn data off len wlen polls)
    (hready : s.ep0Txini = true) (hempty : s.ep0Banks = []) :
    getDescriptor v l s = .next
      { packetsSent [chunk data off len] s with
        ctlPhase := phaseAfterPacket data off len wlen } := by
  rw [getDescriptor_of_dataIn hphase,
    controlDataPoll_of_ready (holdExpired_of_unbounded h.unbounded polls) h.noOut hready,
    h.ep0Tx, List.nil_append, ep0Filled_of_empty s hempty, ← h.ep0Tx]
  rfl

/-- A collect takes the packet in EP0's bank, if there is one, and EP0 is then ready (R48). -/
theorem collectPacket_ep0_eq (s : State) :
    collectPacket .ep0 s =
      { s with
        ep0Banks := s.ep0Banks.tail
        ep0Txini := s.ep0Txini || !s.ep0Banks.isEmpty } := by
  cases h : s.ep0Banks with
  | nil =>
    rw [collectPacket_ep0_nil s h, List.tail_nil, List.isEmpty_nil, Bool.not_true, Bool.or_false,
      ← h]
  | cons p rest => simp [collectPacket_ep0_cons s h]

/-- The first advance starts the stage over the whole entry, cut to `wLength` (R175). -/
theorem stepN_succ_of_start {data : List Byte} {rest : List Choice} (n : Nat)
    (h : ServesDescriptor v l s) (hidle : s.ctlPhase = .idle)
    (hentry : s.cfg.descTable.entry v = some data) (hsched : s.sched = .advance :: rest) :
    stepN (n + 1) s = stepN n { s with sched := rest, ctlPhase := stageStart data l } := by
  have hstart : getDescriptor v l { s with sched := rest } =
      .next { s with sched := rest, ctlPhase := stageStart data l } :=
    (getDescriptor_of_idle (s := { s with sched := rest }) v l hidle).trans
      (descriptorStart_of_entry (s := { s with sched := rest }) l hentry)
  rw [stepN_succ_of_getDescriptor n h hsched hstart, afterRequest_of_dataIn rfl]

/-- The host lifts a hold: the next packet of the stage goes out, into a bank it finds empty. -/
theorem stepN_lift {data : List Byte} {off len wlen polls : Nat} {rest : List Choice} (m : Nat)
    (h : ServesDescriptor v l s) (hphase : s.ctlPhase = .dataIn data off len wlen polls)
    (hsched : s.sched = .env (.collect .ep0) :: .env (.txini true) :: .advance :: rest) :
    stepN (m + 3) s =
      stepN m (afterRequest
        { packetsSent [chunk data off len] s with
          sched := rest, ctlPhase := phaseAfterPacket data off len wlen }) := by
  have hempty : s.ep0Banks.tail = [] := by
    have := h.bank
    exact List.eq_nil_of_length_eq_zero (by rw [List.length_tail]; omega)
  have hready : ServesDescriptor v l { s with sched := rest, ep0Banks := [], ep0Txini := true } :=
    { h with bank := Nat.zero_le 1 }
  calc stepN (m + 3) s
      = stepN (m + 2)
          { s with
            sched := .env (.txini true) :: .advance :: rest
            ep0Banks := []
            ep0Txini := s.ep0Txini || !s.ep0Banks.isEmpty } := by
        rw [← hempty]
        exact stepN_succ_of_sched (m + 2) hsched
          (congrArg Host.Outcome.next (collectPacket_ep0_eq _))
    _ = stepN (m + 1)
          { s with sched := .advance :: rest, ep0Banks := [], ep0Txini := true } :=
        stepN_succ_of_sched (m + 1) rfl rfl
    _ = stepN m (afterRequest
          { packetsSent [chunk data off len] s with
            sched := rest, ctlPhase := phaseAfterPacket data off len wlen }) :=
        stepN_succ_of_getDescriptor m { hready with } rfl
          (hready.getDescriptor_of_ready hphase rfl rfl)

/-- The host lifts every hold of a stage: its packets go out, and the handler is left. -/
theorem stepN_stage {data : List Byte} {off len wlen polls : Nat} {packets : List (List Byte)}
    {rest : List Choice} (hsends : StageSends data len wlen off packets)
    (h : ServesDescriptor v l s) (hphase : s.ctlPhase = .dataIn data off len wlen polls)
    (hsched : s.sched = hostLifts packets.length ++ rest) :
    stepN (3 * packets.length) s = .next
      { packetsSent packets s with sched := rest, ctlPhase := .idle, inHandler := false } := by
  induction hsends generalizing s polls with
  | last hlast =>
    refine (stepN_lift 0 h hphase hsched).trans ?_
    rw [hlast, afterRequest_of_idle rfl]
    rfl
  | more hmore hsends ih =>
    refine (stepN_lift _ h hphase hsched).trans ?_
    rw [hmore, afterRequest_of_dataIn rfl, packetsSent_cons _ hsends.ne_nil]
    exact ih (h.packetSent _ _ _) rfl rfl

end

/-- Settles O33: the first advance starts the stage over the entry, and each hold lifted lets out
one of its packets. -/
theorem descriptorArrivesInChunks : Obligations.DescriptorArrivesInChunks := by
  intro s bm v ix l data rest hbm hpkt hentry hceiling hin hidle hout htx hbank hsched
  have h : ServesDescriptor v l s := ⟨⟨bm, ix, hbm, hpkt⟩, hin, hceiling, hout, htx, hbank⟩
  rw [Nat.add_comm, stepN_succ_of_start _ h hidle hentry hsched]
  refine (stepN_stage (stageSends_dataStagePackets data l.toNat) (h.atPhase _ _) rfl rfl).trans ?_
  rw [← hidle]
  rfl

end Sys2Proof.Machine
end

section
/-! SUPPORT. The HID class requests that store a byte of `wValue`: `SET_IDLE` (R193) and
`SET_PROTOCOL` (R195). -/

namespace Sys2Proof.Machine

/-- Settles O36: each request stores its operand and sends one packet, which is what EP0's buffer
held; neither asks where the control transfer stands. -/
theorem setIdleAndSetProtocolStoreTheirByte :
    Obligations.SetIdleAndSetProtocolStoreTheirByte := fun v l s =>
  ⟨execSetIdle_eq v l s, execSetProtocol_eq v l s⟩

end Sys2Proof.Machine
end

section
/-! SUPPORT. `USB_SETUP` step by step (R206), and two undisturbed runs of it: with the PLL locked,
and with a PLL that never locks (R207). -/

namespace Sys2Proof.Machine

variable {s : State}

/-! ### The steps -/

/-- Step 1: the regulator. -/
theorem execUsbSetup_of_idle (hin : s.inHandler = false) (hfg : s.fg = .idle)
    (hattached : s.attached = false) :
    execUsbSetup s = .next { s with padRegOn := true, fg := .usbSetup .step2 } := by
  simp [execUsbSetup, hin, hfg, hattached, toSetupStep]

/-- The command in flight takes the step it stands at. -/
theorem execUsbSetup_at {pos : SetupPos} (hin : s.inHandler = false)
    (hfg : s.fg = .usbSetup pos) : execUsbSetup s = .next (setupStep pos s) := by
  simp [execUsbSetup, hin, hfg]

/-- Step 2: the PLL. -/
theorem setupStep_step2 (s : State) :
    setupStep .step2 s = { s with pllOn := true, fg := .usbSetup (.step3 0) } := rfl

/-- A read that finds the PLL locked ends step 3. -/
theorem setupStep_step3_of_locked {polls : Nat} (hpolls : polls < s.cfg.pllLockCeiling)
    (hlocked : s.pllLocked = true) :
    setupStep (.step3 polls) s = { s with fg := .usbSetup .step4 } := by
  simp [setupStep, hpolls.not_ge, hlocked, toSetupStep]

/-- A failing read before the last one is counted. -/
theorem setupStep_step3_of_unlocked {polls : Nat} (hpolls : polls + 1 < s.cfg.pllLockCeiling)
    (hlocked : s.pllLocked = false) :
    setupStep (.step3 polls) s = { s with fg := .usbSetup (.step3 (polls + 1)) } := by
  have hleft : polls < s.cfg.pllLockCeiling := Nat.lt_of_succ_lt hpolls
  simp [setupStep, hleft.not_ge, hpolls.not_ge, hlocked, toSetupStep]

/-- The last failing read ends the command (log entry 21). -/
theorem setupStep_step3_of_last {polls : Nat} (hpolls : polls + 1 = s.cfg.pllLockCeiling)
    (hlocked : s.pllLocked = false) :
    setupStep (.step3 polls) s =
      { s with fg := .idle, results := s.results ++ [.usbSetup false] } := by
  simp [setupStep, ← hpolls, hlocked, transportFailure, finishCommand]

/-- Step 4: the controller. -/
theorem setupStep_step4 (s : State) :
    setupStep .step4 s = { s with usbOn := true, fg := .usbSetup .step5 } := rfl

/-- Step 5: the two general interrupts. -/
theorem setupStep_step5 (s : State) :
    setupStep .step5 s =
      { s with giEnEorst := true, giEnSof := true, fg := .usbSetup .step6 } := rfl

/-- Step 6: the pull-up. -/
theorem setupStep_step6 (s : State) :
    setupStep .step6 s =
      { s with attached := true, fg := .idle, results := s.results ++ [.usbSetup true] } := rfl

/-- Settles O37, position by position. -/
theorem usbSetupTakesItsSteps : Obligations.UsbSetupTakesItsSteps := by
  intro s hin
  have run {pos : SetupPos} {t : State} (hfg : s.fg = .usbSetup pos) (ht : setupStep pos s = t) :
      exec .usbSetup s = .next t := ht ▸ execUsbSetup_at hin hfg
  exact ⟨
    execUsbSetup_of_idle hin,
    fun hfg => run hfg (setupStep_step2 s),
    fun _ hfg hpolls hlocked => run hfg (setupStep_step3_of_locked hpolls hlocked),
    fun _ hfg hpolls hlocked => run hfg (setupStep_step3_of_unlocked hpolls hlocked),
    fun _ hfg hpolls hlocked => run hfg (setupStep_step3_of_last hpolls hlocked),
    fun hfg => run hfg (setupStep_step4 s),
    fun hfg => run hfg (setupStep_step5 s),
    fun hfg => run hfg (setupStep_step6 s)⟩

/-! ### Runs -/

/-- A scheduled step of the `USB_SETUP` in flight, and the run from there. -/
theorem stepN_succ_of_setup {pos : SetupPos} {rest : List Choice} {t : State} (n : Nat)
    (hin : s.inHandler = false) (hfg : s.fg = .usbSetup pos) (hsched : s.sched = .fg :: rest)
    (ht : setupStep pos { s with sched := rest } = t) : stepN (n + 1) s = stepN n t := by
  refine stepN_succ_of_sched n hsched ?_
  have hcommand : s.fg.command = some .usbSetup := congrArg FgPos.command hfg
  rw [← ht]
  exact (advanceForeground_of_command (s := { s with sched := rest }) hin hcommand).trans
    (execUsbSetup_at hin hfg)

/-- The call and step 2 turn the regulator and the PLL on; the reads of `pll_locked` come next. -/
theorem stepN_bringUp_to_polls {rest : List Choice} (m : Nat) (hin : s.inHandler = false)
    (hfg : s.fg = .idle) (hattached : s.attached = false)
    (hsched : s.sched = .issue .usbSetup :: .fg :: rest) :
    stepN (m + 2) s =
      stepN m
        { s with sched := rest, padRegOn := true, pllOn := true, fg := .usbSetup (.step3 0) } := by
  calc stepN (m + 2) s
      = stepN (m + 1)
          { s with sched := .fg :: rest, padRegOn := true, fg := .usbSetup .step2 } :=
        stepN_succ_of_sched (m + 1) hsched
          ((issueCommand_of_idle (s := { s with sched := .fg :: rest }) _ hin hfg).trans
            (execUsbSetup_of_idle hin hfg hattached))
    _ = stepN m
          { s with
            sched := rest, padRegOn := true, pllOn := true, fg := .usbSetup (.step3 0) } :=
        stepN_succ_of_setup m hin rfl rfl (setupStep_step2 _)

/-- Failing reads before the last one leave nothing but their count. -/
theorem stepN_failing_polls {rest : List Choice} {k : Nat} (m : Nat) (hin : s.inHandler = false)
    (hlocked : s.pllLocked = false) (hpolls : k < s.cfg.pllLockCeiling) :
    stepN (m + k)
        { s with sched := List.replicate k .fg ++ rest, fg := .usbSetup (.step3 0) } =
      stepN m { s with sched := rest, fg := .usbSetup (.step3 k) } := by
  induction k generalizing m rest with
  | zero => rfl
  | succ k ih =>
    rw [List.replicate_succ', List.append_assoc, ← Nat.add_assoc, Nat.add_right_comm m]
    exact (ih (m + 1) (Nat.lt_of_succ_lt hpolls)).trans
      (stepN_succ_of_setup m hin rfl rfl (setupStep_step3_of_unlocked hpolls hlocked))

/-- Settles O38: one move for the call, one for step 2, and one for each read that fails. -/
theorem bringUpFailsAfterTheCeiling : Obligations.BringUpFailsAfterTheCeiling := by
  intro s rest hin hfg hattached hlocked hpos hsched
  obtain ⟨c, hceiling⟩ := Nat.exists_eq_add_of_le' hpos
  rw [hceiling, Nat.add_comm 1 (c + 1), List.replicate_succ, List.replicate_succ',
    List.cons_append, List.append_assoc] at hsched
  -- up to the last read, which is still to come
  have hbefore (m : Nat) :
      stepN (m + c + 2) s =
        stepN m
          { s with
            sched := .fg :: rest, padRegOn := true, pllOn := true
            fg := .usbSetup (.step3 c) } :=
    (stepN_bringUp_to_polls (m + c) hin hfg hattached hsched).trans
      (stepN_failing_polls (s := { s with padRegOn := true, pllOn := true }) m hin hlocked
        (Nat.lt_of_lt_of_eq c.lt_succ_self hceiling.symm))
  rw [hceiling]
  constructor
  · have hpolling := hbefore 0
    rw [show 0 + c + 2 = 1 + (c + 1) by omega] at hpolling
    exact ⟨_, hpolling, rfl⟩
  · rw [show 2 + (c + 1) = 1 + c + 2 by omega, hbefore, hfg]
    exact stepN_succ_of_setup 0 hin rfl rfl (setupStep_step3_of_last hceiling.symm hlocked)

/-- Settles O39: the first read finds the PLL locked, and three steps remain. -/
theorem bringUpSucceedsWhenLocked : Obligations.BringUpSucceedsWhenLocked := by
  intro s rest hin hfg hattached hlocked hpos hsched
  calc stepN 6 s
      = stepN 4
          { s with
            sched := .fg :: .fg :: .fg :: .fg :: rest
            padRegOn := true, pllOn := true, fg := .usbSetup (.step3 0) } :=
        stepN_bringUp_to_polls 4 hin hfg hattached hsched
    _ = stepN 3
          { s with
            sched := .fg :: .fg :: .fg :: rest
            padRegOn := true, pllOn := true, fg := .usbSetup .step4 } :=
        stepN_succ_of_setup 3 hin rfl rfl (setupStep_step3_of_locked hpos hlocked)
    _ = stepN 2
          { s with
            sched := .fg :: .fg :: rest
            padRegOn := true, pllOn := true, usbOn := true, fg := .usbSetup .step5 } :=
        stepN_succ_of_setup 2 hin rfl rfl (setupStep_step4 _)
    _ = stepN 1
          { s with
            sched := .fg :: rest
            padRegOn := true, pllOn := true, usbOn := true, giEnEorst := true, giEnSof := true
            fg := .usbSetup .step6 } :=
        stepN_succ_of_setup 1 hin rfl rfl (setupStep_step5 _)
    _ = _ := by
        rw [hfg]
        exact stepN_succ_of_setup 0 hin rfl rfl (setupStep_step6 _)

end Sys2Proof.Machine
end

section
/-! SUPPORT. The writes of `SEND_KEYPRESS` outside `TRANSMIT` (R208), the exits of `TRANSMIT` that
fail (R210), and a `TRANSMIT` whose endpoint is never ready, polled once a frame (R211, R288). -/

namespace Sys2Proof.Machine

variable {s : State}

/-! ### The report fields -/

/-- Settles O40: each of the four steps writes its byte and goes on. -/
theorem sendKeypressWritesByteByByte : Obligations.SendKeypressWritesByteByByte :=
  fun key mod _ hin =>
    ⟨execSendKeypress_of_idle key mod hin, execSendKeypress_at (pos := .step2) hin,
      execSendKeypress_at (pos := .step4) hin, execSendKeypress_at (pos := .step5) hin⟩

/-! ### Failing exits -/

/-- The command returns false with nothing sent, and its fields stay as written: what a failed
`TRANSMIT` leaves under the spec's choice of U2. -/
def sendFailed (s : State) : State :=
  { s with sendPhase := .none, fg := .idle, results := s.results ++ [.sendKeypress false] }

theorem transmitFails_of_keep (h : s.cfg.sendFailPolicy = .keep) :
    transmitFails s = sendFailed s := by
  rcases transmitFails_cases s with ⟨_, heq⟩ | ⟨hclear, _⟩
  · exact heq
  · rw [h] at hclear
    cases hclear

theorem configured_of_eq_zero (h : s.configuration = 0) : ¬ s.configured = true := by
  simp [State.configured, h]

/-- On a device that is not configured `t0` fails. -/
theorem sendStep_t0_of_unconfigured (key mod : Byte) (n : TxOrd) (h : s.configuration = 0) :
    sendStep key mod (.t0 n) s = transmitFails s :=
  if_neg (configured_of_eq_zero h)

/-- A device that lost its configuration fails the poll. -/
theorem sendStep_t4_of_unconfigured (key mod : Byte) (n : TxOrd) (d : Nat)
    (h : s.configuration = 0) : sendStep key mod (.t4 n d) s = transmitFails s :=
  if_neg (configured_of_eq_zero h)

theorem sendStep_t5_of_deadline (key mod : Byte) (n : TxOrd) {d : Nat}
    (h : s.frameNum % 2 ^ s.cfg.frameW = d) : sendStep key mod (.t5 n d) s = transmitFails s :=
  if_pos h

/-- Settles O43, exit by exit. -/
theorem transmitFailureEndsTheCommand : Obligations.TransmitFailureEndsTheCommand := by
  intro key mod n s hin hkeep hexit
  have run {pos : SendPos} (hfg : s.fg = .send key mod pos)
      (hfails : sendStep key mod pos s = transmitFails s) :
      exec (.sendKeypress key mod) s = .next (sendFailed s) := by
    rw [← transmitFails_of_keep hkeep, ← hfails]
    exact execSendKeypress_at hin hfg
  rcases hexit with ⟨hfg, hconf⟩ | ⟨d, hfg, hconf⟩ | ⟨d, hfg, hframe⟩
  · exact run hfg (sendStep_t0_of_unconfigured key mod n hconf)
  · exact run hfg (sendStep_t4_of_unconfigured key mod n d hconf)
  · exact run hfg (sendStep_t5_of_deadline key mod n hframe)

/-! ### Frames -/

/-- Frames that pass advance the counter, and the first of them latches the cause where enabled. -/
theorem iterate_frameStarts_succ (k : Nat) (s : State) :
    frameStarts^[k + 1] s =
      { s with
        frameNum := (s.frameNum + (k + 1)) % 2 ^ s.cfg.frameW
        causeSof := s.causeSof || s.giEnSof
        pendGen := s.pendGen || s.giEnSof } := by
  induction k with
  | zero => rfl
  | succ k ih =>
    rw [Function.iterate_succ_apply', ih]
    simp [frameStarts, Nat.add_assoc]

/-- No frame before the fiftieth meets the deadline: the counter does not come round that soon. -/
theorem frame_ne_deadline {modulus i : Nat} (f : Nat) (hmod : 50 < modulus) (hi : i < 50) :
    (f + i) % modulus ≠ (f % modulus + 50) % modulus := by
  intro h
  rw [Nat.mod_add_mod] at h
  have hcancel : i % modulus = 50 % modulus := Nat.ModEq.add_left_cancel' f h
  rw [Nat.mod_eq_of_lt (by omega), Nat.mod_eq_of_lt hmod] at hcancel
  omega

/-! ### An endpoint that is never ready -/

/-- `TRANSMIT` stands between two polls, at `t4`, on a configured device whose endpoint is not
ready. -/
structure PollsUnready (key mod : Byte) (n : TxOrd) (d : Nat) (s : State) : Prop where
  inHandler : s.inHandler = false
  fg : s.fg = .send key mod (.t4 n d)
  sendPhase : s.sendPhase = .txPoll n d
  configured : s.configuration ≠ 0
  notReady : s.kbRwal = false

/-- The moves of a frame with one poll: the frame starts, then `t4`, `t5`, `t6`, `t2`, `t3`. -/
def pollingFrame : List Choice := [.env .sof, .fg, .fg, .fg, .fg, .fg]

section

variable {key mod : Byte} {n : TxOrd} {d : Nat}

/-- Inside the window an endpoint that is not ready closes it again. -/
theorem stepN_unready_window {saved : Bool} {rest : List Choice} (m : Nat)
    (hin : s.inHandler = false) (hfg : s.fg = .send key mod (.t2 n saved d))
    (hready : s.kbRwal = false) (hsched : s.sched = .fg :: .fg :: rest) :
    stepN (m + 2) s =
      stepN m
        { s with
          sched := rest
          intEnable := saved, sendPhase := .txPoll n d, fg := .send key mod (.t4 n d) } := by
  rw [stepN_succ_of_send (m + 1) hin hfg hsched (sendStep_t2_of_not_ready key mod n saved d hready)]
  exact stepN_succ_of_send m hin rfl rfl (sendStep_t3 key mod n saved d _)

theorem PollsUnready.after_frame (h : PollsUnready key mod n d s) :
    PollsUnready key mod n d (frameStarts s) := { h with }

theorem PollsUnready.after_frames (h : PollsUnready key mod n d s) (k : Nat) :
    PollsUnready key mod n d (frameStarts^[k] s) := by
  induction k with
  | zero => exact h
  | succ k ih =>
    rw [Function.iterate_succ_apply']
    exact ih.after_frame

/-- A frame that is not the deadline passes with a failing poll, which leaves no trace. -/
theorem PollsUnready.stepN_frame {rest : List Choice} (m : Nat) (h : PollsUnready key mod n d s)
    (hframe : (s.frameNum + 1) % 2 ^ s.cfg.frameW ≠ d) :
    stepN (m + 6) { s with sched := pollingFrame ++ rest } =
      stepN m { frameStarts s with sched := rest } := by
  calc stepN (m + 6) { s with sched := pollingFrame ++ rest }
      = stepN (m + 5)
          { frameStarts s with sched := .fg :: .fg :: .fg :: .fg :: .fg :: rest } :=
        stepN_succ_of_sched (m + 5) rfl rfl
    _ = stepN (m + 4)
          { frameStarts s with
            sched := .fg :: .fg :: .fg :: .fg :: rest, fg := .send key mod (.t5 n d) } :=
        stepN_succ_of_send _ h.inHandler h.fg rfl
          (sendStep_t4_of_configured key mod n d h.configured)
    _ = stepN (m + 3)
          { frameStarts s with
            sched := .fg :: .fg :: .fg :: rest, fg := .send key mod (.t6 n d) } :=
        stepN_succ_of_send _ h.inHandler rfl rfl
          (sendStep_t5_of_not_deadline key mod n ((Nat.mod_mod _ _).trans_ne hframe))
    _ = stepN (m + 2)
          { frameStarts s with
            sched := .fg :: .fg :: rest
            intEnable := false, fg := .send key mod (.t2 n s.intEnable d) } :=
        stepN_succ_of_send _ h.inHandler rfl rfl (sendStep_t6 key mod n d _)
    _ = stepN m
          { frameStarts s with
            sched := rest, sendPhase := .txPoll n d, fg := .send key mod (.t4 n d) } :=
        stepN_unready_window m h.inHandler rfl h.notReady rfl
    _ = stepN m { frameStarts s with sched := rest } := by
        rw [← h.sendPhase, ← h.fg]
        rfl

/-- Frames before the deadline pass with a failing poll each. -/
theorem PollsUnready.stepN_frames {k : Nat} {rest : List Choice} (m : Nat)
    (h : PollsUnready key mod n d s)
    (hframes : ∀ i < k, (s.frameNum + (i + 1)) % 2 ^ s.cfg.frameW ≠ d) :
    stepN (m + k * 6) { s with sched := (List.replicate k pollingFrame).flatten ++ rest } =
      stepN m { frameStarts^[k] s with sched := rest } := by
  induction k generalizing s with
  | zero => rfl
  | succ k ih =>
    have hlater : ∀ i < k,
        ((frameStarts s).frameNum + (i + 1)) % 2 ^ s.cfg.frameW ≠ d := by
      intro i hi
      have := hframes (i + 1) (by omega)
      rwa [frameStarts, Nat.mod_add_mod, Nat.add_assoc, Nat.add_comm 1]
    rw [Nat.succ_mul, ← Nat.add_assoc, List.replicate_succ, List.flatten_cons, List.append_assoc,
      h.stepN_frame (m + k * 6) (hframes 0 k.succ_pos)]
    exact ih h.after_frame hlater

/-- The frame of the deadline ends the command. -/
theorem PollsUnready.stepN_deadline {rest : List Choice} (m : Nat) (h : PollsUnready key mod n d s)
    (hkeep : s.cfg.sendFailPolicy = .keep) (hframe : (s.frameNum + 1) % 2 ^ s.cfg.frameW = d) :
    stepN (m + 3) { s with sched := .env .sof :: .fg :: .fg :: rest } =
      stepN m { sendFailed (frameStarts s) with sched := rest } := by
  calc stepN (m + 3) { s with sched := .env .sof :: .fg :: .fg :: rest }
      = stepN (m + 2) { frameStarts s with sched := .fg :: .fg :: rest } :=
        stepN_succ_of_sched (m + 2) rfl rfl
    _ = stepN (m + 1)
          { frameStarts s with sched := .fg :: rest, fg := .send key mod (.t5 n d) } :=
        stepN_succ_of_send _ h.inHandler h.fg rfl
          (sendStep_t4_of_configured key mod n d h.configured)
    _ = stepN m { sendFailed (frameStarts s) with sched := rest } :=
        stepN_succ_of_send m h.inHandler rfl rfl
          ((sendStep_t5_of_deadline key mod n ((Nat.mod_mod _ _).trans hframe)).trans
            (transmitFails_of_keep hkeep))

/-- Frames before the deadline, and then its own frame: the command fails in that frame. -/
theorem PollsUnready.stepN_gives_up {k : Nat} {rest : List Choice} (m : Nat)
    (h : PollsUnready key mod n d s) (hkeep : s.cfg.sendFailPolicy = .keep)
    (hframes : ∀ i < k, (s.frameNum + (i + 1)) % 2 ^ s.cfg.frameW ≠ d)
    (hdeadline : (s.frameNum + (k + 1)) % 2 ^ s.cfg.frameW = d) :
    stepN (m + 3 + k * 6)
        { s with
          sched := (List.replicate k pollingFrame).flatten ++ .env .sof :: .fg :: .fg :: rest } =
      stepN m { sendFailed (frameStarts^[k + 1] s) with sched := rest } := by
  have hcfg : (frameStarts^[k] s).cfg = s.cfg := by
    cases k with
    | zero => rfl
    | succ k => rw [iterate_frameStarts_succ]
  have hframe : ((frameStarts^[k] s).frameNum + 1) % 2 ^ s.cfg.frameW = d := by
    cases k with
    | zero => exact hdeadline
    | succ k => rw [iterate_frameStarts_succ, Nat.mod_add_mod, Nat.add_assoc, hdeadline]
  rw [h.stepN_frames (m + 3) hframes, Function.iterate_succ_apply']
  exact (h.after_frames k).stepN_deadline m (hcfg ▸ hkeep) (hcfg ▸ hframe)

/-- From `t1`, the first poll inside the window fails and leaves `TRANSMIT` at `t4`. -/
theorem stepN_first_unready_poll {rest : List Choice} (m : Nat) (hin : s.inHandler = false)
    (hfg : s.fg = .send key mod (.t1 n)) (hready : s.kbRwal = false)
    (hdeadline : (s.frameNum % 2 ^ s.cfg.frameW + 50) % 2 ^ s.cfg.frameW = d)
    (hsched : s.sched = .fg :: .fg :: .fg :: rest) :
    stepN (m + 3) s =
      stepN m
        { s with sched := rest, sendPhase := .txPoll n d, fg := .send key mod (.t4 n d) } := by
  rw [stepN_succ_of_send (m + 2) hin hfg hsched (sendStep_t1 key mod n _), ← hdeadline]
  exact stepN_unready_window m hin rfl hready rfl

end

/-- Settles O45: 49 frames pass with a failing poll each, and the next one is the deadline. -/
theorem transmitGivesUpAfterFiftyFrames : Obligations.TransmitGivesUpAfterFiftyFrames := by
  intro key mod n s rest hin hfg hconf hready hkeep hwidth hsched
  have hmod : 50 < 2 ^ s.cfg.frameW :=
    Nat.lt_of_lt_of_le (by decide : 50 < 2 ^ 6) (Nat.pow_le_pow_right Nat.two_pos hwidth)
  generalize hd : (s.frameNum % 2 ^ s.cfg.frameW + 50) % 2 ^ s.cfg.frameW = d
  have hpolls : PollsUnready key mod n d
      { s with sendPhase := .txPoll n d, fg := .send key mod (.t4 n d) } :=
    ⟨hin, rfl, rfl, hconf, hready⟩
  have hframes : ∀ i < 49, (s.frameNum + (i + 1)) % 2 ^ s.cfg.frameW ≠ d := fun i hi =>
    hd ▸ frame_ne_deadline s.frameNum hmod (by omega)
  have hdeadline : (s.frameNum + (49 + 1)) % 2 ^ s.cfg.frameW = d := by
    rw [← hd, Nat.mod_add_mod]
  constructor
  · exact ⟨_, (stepN_first_unready_poll (0 + 49 * 6) hin hfg hready hd hsched).trans
      (hpolls.stepN_frames 0 hframes), (hpolls.after_frames 49).fg⟩
  · refine (stepN_first_unready_poll (0 + 3 + 49 * 6) hin hfg hready hd hsched).trans
      ((hpolls.stepN_gives_up 0 hkeep hframes hdeadline).trans ?_)
    rw [iterate_frameStarts_succ]
    rfl

end Sys2Proof.Machine
end

section
/-! SUPPORT. `HAS_CONFIGURED` (R212), and the calls that are refused (U6, U7, U8). -/

namespace Sys2Proof.Machine

variable {s : State}

/-- Settles O46: the call is taken from interrupt context, and from the foreground with no command
in flight. -/
theorem hasConfiguredReadsTheConfiguration : Obligations.HasConfiguredReadsTheConfiguration := by
  intro s hcall
  have htaken : (s.inHandler || s.fg == .idle) = true := by simpa using hcall
  exact if_pos htaken

/-! ### Refused calls -/

theorem execUsbSetup_of_inHandler (h : s.inHandler = true) :
    execUsbSetup s = .refused .commandFromInterrupt := if_pos h

theorem execKpTake_of_inHandler (h : s.inHandler = true) :
    execKpTake s = .refused .commandFromInterrupt := if_pos h

theorem execSendKeypress_of_inHandler (key mod : Byte) (h : s.inHandler = true) :
    execSendKeypress key mod s = .refused .commandFromInterrupt := if_pos h

theorem execUsbSetup_of_attached (hin : s.inHandler = false) (hfg : s.fg = .idle)
    (hattached : s.attached = true) : execUsbSetup s = .refused .setupRepeated := by
  simp [execUsbSetup, hin, hfg, hattached]

/-- A call while a command is in flight is refused by the schedule's move, whatever it calls. -/
theorem issueCommand_of_busy (c : Command) (hin : s.inHandler = false) (hfg : s.fg ≠ .idle) :
    issueCommand c s = .refused .commandInFlight := by
  simp [issueCommand, hin, hfg]

/-- Settles O47: from interrupt context, once attached, and while a command is in flight. -/
theorem unspecifiedCallsAreRefused : Obligations.UnspecifiedCallsAreRefused := by
  intro s key mod rest
  refine ⟨fun hin => ⟨execUsbSetup_of_inHandler hin, execKpTake_of_inHandler hin,
    execSendKeypress_of_inHandler key mod hin⟩, execUsbSetup_of_attached,
    fun c hin hfg hsched => ?_⟩
  rw [step_of_sched hsched]
  exact issueCommand_of_busy c hin hfg

end Sys2Proof.Machine
end

section
/-! SUPPORT. The move of an empty schedule (R250, log entry 11). -/

namespace Sys2Proof.Machine

variable {s : State}

theorem nextChoice_of_sched_nil (h : s.sched = []) :
    s.nextChoice = Config.envChoice s.draws := by
  simp [State.nextChoice, h]

theorem takeChoice_of_sched_nil (h : s.sched = []) :
    s.takeChoice = { s with draws := s.draws + 1 } := by
  simp [State.takeChoice, h]

/-- Settles O10: an empty schedule draws both the move and the counter's advance. -/
theorem emptyScheduleDrawsTheMove : Obligations.EmptyScheduleDrawsTheMove := by
  intro s hsched
  rw [step, nextChoice_of_sched_nil hsched, takeChoice_of_sched_nil hsched]

end Sys2Proof.Machine
end
